-- ==== Sys2Proof/Word.lean ====
section
/-!
DEFINITION. The core's word types (spec/00_scope.md R8, R9). Every value is unsigned and bit 0 is the least
significant bit.
-/

namespace Sys2Proof

/-- A stream word, 64 bits: the unit of input and output (30_encoding.md R70). -/
abbrev Word64 := BitVec 64

/-- A 32-bit half of a strip line (30_encoding.md R73). -/
abbrev ClusterWord := BitVec 32

/-- A 32-bit EncodedRecord (30_encoding.md R76). -/
abbrev Record := BitVec 32

/-- The 12-bit raw chip/strip position (30_encoding.md R73). -/
abbrev Position := BitVec 12

/-- The 16-bit identifier that is copied and never interpreted (30_encoding.md R73). -/
abbrev PassthroughId := BitVec 16

end Sys2Proof
end

