-- ==== Sys2Proof/Config.lean ====
section
/-!
DEFINITION. The core's configuration inputs (spec/00_scope.md R7, 10_state.md R26). The spec leaves every one of
them OPEN, so a configuration is data that the host supplies; no definition of the model fixes one. The spec
leaves no computed value open, so this file holds no free value.
-/

namespace Sys2Proof

/-- Whether the adjacency check runs on each module (00_scope.md R7, 44_overlap_check.md R211). -/
inductive OverlapCheck
  | off
  | on
  deriving DecidableEq, Repr

/-- The five configuration inputs (00_scope.md R7). `none` stands for the spec's `∞`. -/
structure Cfg where
  /-- `HEADER_SIZE`: header words at the start of a frame. -/
  headerSize : Nat
  /-- `FOOTER_SIZE`: footer words at the end of a frame. -/
  footerSize : Nat
  /-- `OVERLAP_CHECK`. -/
  overlapCheck : OverlapCheck
  /-- `QUEUE_CAPACITY`: how many ClusterWords the pending-cluster queue holds; `none` is unbounded. -/
  queueCapacity : Option Nat
  /-- `LEN_WIDTH`: the width of the length and index counters; `none` is unbounded. -/
  lenWidth : Option Nat
  deriving DecidableEq, Repr

/-- The configuration the machine holds before the host has set one. DESIGN CHOICE, unsafe (log entry 3): the spec
gives the configuration inputs no reset value (10_state.md R31), so no statement rests on this one. -/
def Cfg.beforeHost : Cfg :=
  { headerSize := 0, footerSize := 0, overlapCheck := .off, queueCapacity := none, lenWidth := none }

end Sys2Proof
end

