-- ==== Sys2Proof/Syntax.lean ====
section
/-!
DEFINITION. The core's "instructions": one constructor for each row of spec/opcode_table.json. An instruction is a
word class the core decodes or an operation the core performs (spec/00_scope.md R3); the core itself runs no
program (R2).
-/

namespace Sys2Proof

/-- A DecodedHit (30_encoding.md R75): `size` is stored in 3 bits and takes the values 1 to 4. -/
structure DecodedHit where
  position : Position
  size : BitVec 3
  passthroughId : PassthroughId
  deriving DecidableEq, Repr

/-- The rows of spec/opcode_table.json, in the table's order. A row that reads a word carries the word or its
fields; `start` carries the frame's `vSize`. -/
inductive Instr
  /-- START: the host presents a frame of `vSize` words (40_frame_parser.md R101). -/
  | start (vSize : Nat)
  /-- HDR: a header word (R102). -/
  | hdr (w : Word64)
  /-- MODHDR: a module-header word (R105). -/
  | modhdr (w : Word64)
  /-- MODEND: the end of the module region (R103). -/
  | modend
  /-- LINE.CONT: a strip line with neither half flag set (R106). -/
  | lineCont (hi lo : ClusterWord)
  /-- LINE.LAST.HI: a strip line with the upper half flag alone set (R107). -/
  | lineLastHi (hi lo : ClusterWord)
  /-- LINE.LAST.LO: a strip line with the lower half flag alone set (R107). -/
  | lineLastLo (hi lo : ClusterWord)
  /-- LINE.LAST.BOTH: a strip line with both half flags set (R107). -/
  | lineLastBoth (hi lo : ClusterWord)
  /-- MODCUT: a module cut at the footer start (R108). -/
  | modcut
  /-- FLUSH: the module's queue is decoded, packed and emitted (R109). -/
  | flush
  /-- FTR: a footer word (R110). -/
  | ftr (w : Word64)
  /-- FRAME.END: the frame is complete (R111). -/
  | frameEnd
  /-- CW.NOHIT: an all-zero strip-line half (41_cluster_decoder.md R131). -/
  | cwNohit
  /-- CW.S0: a ClusterWord of shape 0 (R136). -/
  | cwS0 (f : BitVec 1) (position : Position) (passthroughId : PassthroughId)
  /-- CW.S1 (R137). -/
  | cwS1 (f : BitVec 1) (position : Position) (passthroughId : PassthroughId)
  /-- CW.S2 (R138). -/
  | cwS2 (f : BitVec 1) (position : Position) (passthroughId : PassthroughId)
  /-- CW.S3 (R139). -/
  | cwS3 (f : BitVec 1) (position : Position) (passthroughId : PassthroughId)
  /-- CW.S4 (R140). -/
  | cwS4 (f : BitVec 1) (position : Position) (passthroughId : PassthroughId)
  /-- CW.S5 (R141). -/
  | cwS5 (f : BitVec 1) (position : Position) (passthroughId : PassthroughId)
  /-- CW.S6 (R142). -/
  | cwS6 (f : BitVec 1) (position : Position) (passthroughId : PassthroughId)
  /-- CW.S7 (R143). -/
  | cwS7 (f : BitVec 1) (position : Position) (passthroughId : PassthroughId)
  /-- UNROLL: the Address Unroller maps one position (42_address_unroller.md R160). -/
  | unroll (position : Position)
  /-- REC: the Encoder makes the record of one hit (43_encoder_packer.md R183). -/
  | encodeHit (hit : DecodedHit) (last : Bool)
  /-- OUT.PAIR: the Packer completes a pair word (R184). -/
  | outPair (recA recB : Record)
  /-- OUT.ODD: the Packer flushes an odd final record (R185). -/
  | outOdd (final : Record)
  /-- OUT.SENTINEL: the sentinel replaces an overlapping module's output (44_overlap_check.md R213). -/
  | outSentinel
  deriving DecidableEq, Repr

end Sys2Proof
end

