-- ==== Sys2Proof/WellFormed.lean ====
section
/-!
DEFINITION. Which instructions the formats of spec/30_encoding.md and spec/opcode_table.json admit.
-/

namespace Sys2Proof

/-- A DecodedHit's size is 1, 2, 3 or 4 (30_encoding.md R75). -/
def DecodedHit.wellFormed (h : DecodedHit) : Bool :=
  1 ≤ h.size.toNat && h.size.toNat ≤ 4

/-- The operands fit the row: the two flag bits of a strip line are the row's (30_encoding.md R80), a ClusterWord of
shape 0 is not the all-zero no-hit word (R80), a hit has a legal size (R75), a pair's first record is not the module's
final one and an odd word's record is (R83). -/
def Instr.wellFormed : Instr → Bool
  | .start _ => true
  | .hdr _ => true
  | .modhdr _ => true
  | .modend => true
  | .lineCont hi lo => !hi.getLsbD 31 && !lo.getLsbD 31
  | .lineLastHi hi lo => hi.getLsbD 31 && !lo.getLsbD 31
  | .lineLastLo hi lo => !hi.getLsbD 31 && lo.getLsbD 31
  | .lineLastBoth hi lo => hi.getLsbD 31 && lo.getLsbD 31
  | .modcut => true
  | .flush => true
  | .ftr _ => true
  | .frameEnd => true
  | .cwNohit => true
  | .cwS0 f p pid => !(f == 0#1 && p == 0#12 && pid == 0#16)
  | .cwS1 _ _ _ => true
  | .cwS2 _ _ _ => true
  | .cwS3 _ _ _ => true
  | .cwS4 _ _ _ => true
  | .cwS5 _ _ _ => true
  | .cwS6 _ _ _ => true
  | .cwS7 _ _ _ => true
  | .unroll _ => true
  | .encodeHit h _ => h.wellFormed
  | .outPair a _ => !a.getLsbD 31
  | .outOdd r => r.getLsbD 31
  | .outSentinel => true

end Sys2Proof
end

