-- ==== Sys2Proof/Decode.lean ====
section
/-!
DEFINITION. Decoding and encoding (spec/30_encoding.md, spec/opcode_table.json). The core classifies in two stages
(R80): position and phase select a slot, and only then are bits examined. `decode` is total on every slot and every
64 bits and rejects by name; `encode` is written from the same formats.
-/

namespace Sys2Proof

/-! ### Fields of the word formats -/

/-- The upper half of a 64-bit word, bits 63..32 (R71). -/
def upperHalf (w : Word64) : BitVec 32 := w.extractLsb' 32 32

/-- The lower half of a 64-bit word, bits 31..0 (R71). -/
def lowerHalf (w : Word64) : BitVec 32 := w.extractLsb' 0 32

/-- The 64-bit word with the given halves: a strip line (R71) or a pair of records (R77). -/
def joinHalves (hi lo : BitVec 32) : Word64 := hi ++ lo

/-- The half flag `c[31]`: the flag of one half, which is not the line's LAST indicator (R72). -/
def halfFlag (c : ClusterWord) : Bool := c.getLsbD 31

/-- `position = c[30:19]` (R73). -/
def clusterPosition (c : ClusterWord) : Position := c.extractLsb' 19 12

/-- `shapeCode = c[18:16]` (R73). -/
def clusterShape (c : ClusterWord) : BitVec 3 := c.extractLsb' 16 3

/-- `passthroughId = c[15:0]` (R73). -/
def clusterId (c : ClusterWord) : PassthroughId := c.extractLsb' 0 16

/-- `CW(f, pos, sh, pid) = {f:1, pos:12, sh:3, pid:16}` (R84). -/
def clusterWord (f : BitVec 1) (position : Position) (shape : BitVec 3) (pid : PassthroughId) : ClusterWord :=
  f ++ position ++ shape ++ pid

/-- `{last:1, row:1, nStrips:2, stripIndex:12, passthroughId:16}` (R76). -/
def recordWord (last row : BitVec 1) (nStrips : BitVec 2) (stripIndex : BitVec 12) (pid : PassthroughId) : Record :=
  last ++ row ++ nStrips ++ stripIndex ++ pid

/-- The sentinel error word, all 64 bits set (R79). -/
def sentinel : Word64 := BitVec.allOnes 64

/-! ### Slots: what is selected before any bit is examined -/

/-- The first stage of the classification (R80): the word class that the index selects, the steps that read no word,
and the internal and output operations. -/
inductive Slot
  /-- The host presents a frame of `vSize` words; no word is read. -/
  | frameStart (vSize : Nat)
  /-- An input word at an index below `HEADER_SIZE`. -/
  | header
  /-- The first input word of a module. -/
  | moduleHeader
  /-- Phase MODHDR at the footer start; no word is read. -/
  | regionEnd
  /-- An input word inside a module. -/
  | stripLine
  /-- Phase STRIP at the footer start; no word is read. -/
  | regionCut
  /-- Phase FLUSH with the module's queue drained; no word is read. -/
  | moduleEnd
  /-- An input word at or after the footer start. -/
  | footer
  /-- Phase FTR at the end of the frame; no word is read. -/
  | frameEnd
  /-- A 32-bit half of a strip line. -/
  | half
  /-- A hit's 12-bit position, at the Address Unroller. -/
  | position
  /-- A 32-bit EncodedRecord. -/
  | record
  /-- A 64-bit word of a module's packed output. -/
  | packed
  deriving DecidableEq, Repr

/-- Why `decode` refuses bits. Every name is safe: an input word is never refused (R81). -/
inductive DecodeError
  /-- Bits given for a step that reads no word. -/
  | wordWhereNoneIsRead
  /-- A bit set above the width of the slot's format. -/
  | widerThanFormat
  /-- A record whose `stripIndex` is above 2047, which no position gives (42_address_unroller.md R162). -/
  | stripIndexOutOfRange
  /-- A 64-bit word that is no pair word, no odd trailing word and not the sentinel (R77, R78, R79). -/
  | notAnOutputWord
  deriving DecidableEq, Repr

/-! ### Decoding -/

/-- A strip line's row by its two flag bits (R80). -/
def decodeLine (w : Word64) : Instr :=
  match w.getLsbD 63, w.getLsbD 31 with
  | false, false => .lineCont (upperHalf w) (lowerHalf w)
  | true, false => .lineLastHi (upperHalf w) (lowerHalf w)
  | false, true => .lineLastLo (upperHalf w) (lowerHalf w)
  | true, true => .lineLastBoth (upperHalf w) (lowerHalf w)

/-- The row of a nonzero ClusterWord with the given shape code (R80). -/
def decodeShape (shape : BitVec 3) (f : BitVec 1) (position : Position) (pid : PassthroughId) : Instr :=
  match shape.toNat with
  | 0 => .cwS0 f position pid
  | 1 => .cwS1 f position pid
  | 2 => .cwS2 f position pid
  | 3 => .cwS3 f position pid
  | 4 => .cwS4 f position pid
  | 5 => .cwS5 f position pid
  | 6 => .cwS6 f position pid
  | _ => .cwS7 f position pid

/-- A ClusterWord's row: the no-hit test on all 32 bits comes first (R80, R74). -/
def decodeHalf (c : ClusterWord) : Instr :=
  if c = 0#32 then .cwNohit
  else decodeShape (clusterShape c) (c.extractLsb' 31 1) (clusterPosition c) (clusterId c)

/-- The position with a given strip index and row: `{stripIndex[10:7]:4, row:1, stripIndex[6:0]:7}`
(42_address_unroller.md R163). -/
def rollBack (stripIndex : BitVec 12) (row : BitVec 1) : Position :=
  stripIndex.extractLsb' 7 4 ++ row ++ stripIndex.extractLsb' 0 7

/-- The hit size that a record's `nStrips` field stands for: 0 is size 4 (43_encoder_packer.md R182). -/
def sizeOfNStrips (n : BitVec 2) : BitVec 3 :=
  if n = 0#2 then 4#3 else n.setWidth 3

/-- The hit and the `last` bit of a record (R76, with the inverses of R163 and R182). -/
def decodeRecord (r : Record) : Except DecodeError Instr :=
  if r.getLsbD 27 then .error .stripIndexOutOfRange
  else .ok (.encodeHit
    { position := rollBack (r.extractLsb' 16 12) (r.extractLsb' 30 1)
      size := sizeOfNStrips (r.extractLsb' 28 2)
      passthroughId := r.extractLsb' 0 16 }
    (r.getLsbD 31))

/-- The row of a word of a module's packed output, by the table's masks. -/
def decodePacked (w : Word64) : Except DecodeError Instr :=
  if w = sentinel then .ok .outSentinel
  else if w.getLsbD 63 = false then .ok (.outPair (upperHalf w) (lowerHalf w))
  else if lowerHalf w = 0#32 then .ok (.outOdd (upperHalf w))
  else .error .notAnOutputWord

/-- A step that reads no word: its row, if no bits are given. -/
def decodeNoWord (i : Instr) (w : Word64) : Except DecodeError Instr :=
  if w = 0#64 then .ok i else .error .wordWhereNoneIsRead

/-- The second stage of the classification: the row that a slot's bits stand for. A format narrower than 64 bits stands
in the low bits. -/
def decode (slot : Slot) (w : Word64) : Except DecodeError Instr :=
  match slot with
  | .frameStart vSize => decodeNoWord (.start vSize) w
  | .header => .ok (.hdr w)
  | .moduleHeader => .ok (.modhdr w)
  | .regionEnd => decodeNoWord .modend w
  | .stripLine => .ok (decodeLine w)
  | .regionCut => decodeNoWord .modcut w
  | .moduleEnd => decodeNoWord .flush w
  | .footer => .ok (.ftr w)
  | .frameEnd => decodeNoWord .frameEnd w
  | .half => if w.toNat < 2 ^ 32 then .ok (decodeHalf (w.setWidth 32)) else .error .widerThanFormat
  | .position => if w.toNat < 2 ^ 12 then .ok (.unroll (w.setWidth 12)) else .error .widerThanFormat
  | .record => if w.toNat < 2 ^ 32 then decodeRecord (w.setWidth 32) else .error .widerThanFormat
  | .packed => decodePacked w

/-! ### Encoding -/

/-- The record of a hit by its bits: `row = position[7]`, `stripIndex = {position[11:8]:4, position[6:0]:7}`
(42_address_unroller.md R161), `nStrips = size[1:0]` (43_encoder_packer.md R182). -/
def encodeRecordBits (h : DecodedHit) (last : Bool) : Record :=
  recordWord (BitVec.ofBool last) (h.position.extractLsb' 7 1) (h.size.extractLsb' 0 2)
    (0#1 ++ h.position.extractLsb' 8 4 ++ h.position.extractLsb' 0 7) h.passthroughId

/-- The slot and the bits of an instruction (R71, R73, R76 to R79). -/
def encode : Instr → Slot × Word64
  | .start vSize => (.frameStart vSize, 0#64)
  | .hdr w => (.header, w)
  | .modhdr w => (.moduleHeader, w)
  | .modend => (.regionEnd, 0#64)
  | .lineCont hi lo => (.stripLine, joinHalves hi lo)
  | .lineLastHi hi lo => (.stripLine, joinHalves hi lo)
  | .lineLastLo hi lo => (.stripLine, joinHalves hi lo)
  | .lineLastBoth hi lo => (.stripLine, joinHalves hi lo)
  | .modcut => (.regionCut, 0#64)
  | .flush => (.moduleEnd, 0#64)
  | .ftr w => (.footer, w)
  | .frameEnd => (.frameEnd, 0#64)
  | .cwNohit => (.half, 0#64)
  | .cwS0 f p pid => (.half, (clusterWord f p 0#3 pid).setWidth 64)
  | .cwS1 f p pid => (.half, (clusterWord f p 1#3 pid).setWidth 64)
  | .cwS2 f p pid => (.half, (clusterWord f p 2#3 pid).setWidth 64)
  | .cwS3 f p pid => (.half, (clusterWord f p 3#3 pid).setWidth 64)
  | .cwS4 f p pid => (.half, (clusterWord f p 4#3 pid).setWidth 64)
  | .cwS5 f p pid => (.half, (clusterWord f p 5#3 pid).setWidth 64)
  | .cwS6 f p pid => (.half, (clusterWord f p 6#3 pid).setWidth 64)
  | .cwS7 f p pid => (.half, (clusterWord f p 7#3 pid).setWidth 64)
  | .unroll p => (.position, p.setWidth 64)
  | .encodeHit h last => (.record, (encodeRecordBits h last).setWidth 64)
  | .outPair a b => (.packed, joinHalves a b)
  | .outOdd r => (.packed, joinHalves r 0#32)
  | .outSentinel => (.packed, sentinel)

/-! ### The host's question: a row's bits alone -/

/-- The slot in which bits with no position are read: the opcode table gives a row a width and no position, and the
bits of a word select its row in three formats only, the strip line, the ClusterWord and the 12-bit position
(DESIGN CHOICE, log entry 7). -/
def slotOfWidth (nbits : Nat) : Slot :=
  if nbits ≤ 16 then .position else if nbits ≤ 32 then .half else .stripLine

/-- The instruction that `decode` reads from `nbits` bits `w` in the slot of that width. -/
def decodeTableWord (nbits w : Nat) : Option Instr :=
  if w < 2 ^ 64 then
    match decode (slotOfWidth nbits) (BitVec.ofNat 64 w) with
    | .ok i => some i
    | .error _ => none
  else none

end Sys2Proof
end

