-- ==== Sys2Proof/Machine/State.lean ====
section
/-!
DEFINITION. The state of the core (spec/10_state.md R20 to R31), the host's side of it as plain data (R26, R33,
70_reset_and_hazards.md R262, R263), and the reasons a step can stop.
-/

namespace Sys2Proof.Machine

/-- The Frame Parser's control state (10_state.md R21). -/
inductive Phase
  /-- IDLE: no frame in progress. -/
  | idle
  /-- HDR: copying header words. -/
  | hdr
  /-- MODHDR: about to read a module-header word, or to find the module region exhausted. -/
  | modhdr
  /-- STRIP: reading the strip lines of the current module. -/
  | strip
  /-- FLUSH: decoding, encoding and packing the current module's queue. -/
  | flush
  /-- FTR: copying footer words. -/
  | ftr
  /-- DONE: the frame finished with status OK. -/
  | done
  /-- ERR_LEN: the frame was rejected with InvalidLength. -/
  | errLen
  /-- FAULT: the frame stopped on a QueueOverflow. -/
  | fault
  deriving DecidableEq, Repr

/-- The frame's completion status (10_state.md R27). -/
inductive Status
  | none
  | ok
  | invalidLength
  | queueOverflow
  deriving DecidableEq, Repr

/-- What the Address Unroller puts out for one position (42_address_unroller.md R160). -/
structure Unrolled where
  stripIndex : BitVec 12
  row : BitVec 1
  deriving DecidableEq, Repr

/-- What the host can do to the core beside presenting a frame (70_reset_and_hazards.md R260, R262, R263). -/
inductive HostInput
  /-- The host sets the configuration inputs (R262). -/
  | configure (cfg : Cfg)
  /-- The host supplies the frame's next input word (R263). -/
  | supply (w : Word64)
  /-- The host starts (`true`) or stops (`false`) taking emitted words (R263). -/
  | takeOutput (taking : Bool)
  /-- Reset (R260). -/
  | reset
  deriving DecidableEq, Repr

/-- An act of the host: presenting a frame of `vSize` words (R263), which fires START, or one of the others. -/
inductive HostAct
  | present (vSize : Nat)
  | give (input : HostInput)
  deriving DecidableEq, Repr

/-- A host act that lands after the core has been given `after` further steps. -/
structure HostEvent where
  after : Nat
  act : HostAct
  deriving DecidableEq, Repr

/-- The whole state. The spec's own elements come first, then the host's side, then the model's own wire. -/
structure State where
  /-- Control state (R21). -/
  phase : Phase
  /-- Index of the next input word to consume (R22). -/
  rd : Nat
  /-- Latched `vSize` (R23). -/
  vs : Nat
  /-- Latched footer start `vSize - FOOTER_SIZE` (R23). -/
  fe : Nat
  /-- Pending-cluster queue, head first (R24). -/
  q : List ClusterWord
  /-- Output stream of the current frame, first word first (R25). -/
  out : List Word64
  /-- Completion status (R27). -/
  status : Status
  /-- The packer's pending first-of-pair record (R30). -/
  held : Option Record
  /-- The previous hit of the module (R30). -/
  prev : Option DecodedHit
  /-- An overlap has been seen in the current module (R30). -/
  ovf : Bool
  /-- The module's packed words, held back while the adjacency check is on (R30). -/
  mbuf : List Word64
  /-- The configuration inputs, held by the host (R26). -/
  cfg : Cfg
  /-- The input words the host has supplied for the current frame: `InWord(i)` is element `i` (R33, R263). -/
  input : List Word64
  /-- Whether the host takes emitted words (R263). -/
  taking : Bool
  /-- The host's acts still to come, soonest first; an event's delay counts from the one before it. -/
  schedule : List HostEvent
  /-- MODEL'S OWN (log entry 5): the wire from the Address Unroller to the Encoder. -/
  unrolled : Unrolled
  deriving DecidableEq, Repr

/-- Why the machine stops with a fault. The core has no trap (60_exceptions.md R234, R236): its two frame errors are
next states. -/
inductive Fault
  /-- Raised by `step` where no transition of 40_frame_parser.md R113 is enabled although the phase must have one: the
  read index is past the end of its region. Safe: no state that meets `Inv` has it (10_state.md R32). -/
  | noTransition
  deriving DecidableEq, Repr

/-- Why a step has no meaning. -/
inductive Refusal
  /-- An instruction with no meaning yet, by its mnemonic; no arm raises it. Safe. -/
  | notModelled (mnemonic : String)
  /-- Raised by a meaning whose transition's phase or guard does not hold (40_frame_parser.md R113): `step` never
  selects such an instruction. Safe. -/
  | notEnabled
  /-- Raised by START while a frame is in progress (70_reset_and_hazards.md R264). Safe. -/
  | frameInProgress
  /-- Raised by START for a frame that does not fit `LEN_WIDTH` (R266). Safe. -/
  | lengthExceedsCounter
  /-- Raised when the host changes the configuration during a frame (R262). Safe. -/
  | configChangedInFrame
  /-- Raised by `step` if the selected bits did not decode; no state does so (30_encoding.md R81). Safe. -/
  | undecodable
  deriving DecidableEq, Repr

/-- The idle value of the unroller's wire. -/
def Unrolled.idle : Unrolled := { stripIndex := 0#12, row := 0#1 }

/-- The machine right after reset (10_state.md R31), with no frame presented, no act of the host pending, and the host
taking words (log entries 3 and 4). -/
def State.reset : State :=
  { phase := .idle
    rd := 0
    vs := 0
    fe := 0
    q := []
    out := []
    status := .none
    held := none
    prev := none
    ovf := false
    mbuf := []
    cfg := Cfg.beforeHost
    input := []
    taking := true
    schedule := []
    unrolled := Unrolled.idle }

end Sys2Proof.Machine
end

