-- ==== Sys2Proof/Machine/Operands.lean ====
section
/-!
DEFINITION. The pure functions of the components: Cluster Shape Table and Cluster Decoder (spec/41_cluster_decoder.md),
Address Unroller (42_address_unroller.md), Encoder (43_encoder_packer.md R183).
-/

namespace Sys2Proof.Machine

/-! ### Cluster Shape Table and Cluster Decoder -/

/-- An entry of the Cluster Shape Table: the primary size and, where there is one, the secondary's offset and size
(41_cluster_decoder.md R133). -/
structure ShapeEntry where
  primarySize : BitVec 3
  secondary : Option (Position × BitVec 3)
  deriving DecidableEq, Repr

/-- The constant Cluster Shape Table (R133, 10_state.md R29). -/
def shapeTable : Vector ShapeEntry 8 :=
  #v[{ primarySize := 1#3, secondary := none },
     { primarySize := 1#3, secondary := some (3#12, 1#3) },
     { primarySize := 1#3, secondary := some (2#12, 1#3) },
     { primarySize := 1#3, secondary := some (2#12, 2#3) },
     { primarySize := 2#3, secondary := none },
     { primarySize := 2#3, secondary := some (3#12, 1#3) },
     { primarySize := 3#3, secondary := none },
     { primarySize := 4#3, secondary := none }]

/-- The entry of a shape code; every 3-bit code has one (R133). -/
def shapeEntry (shape : BitVec 3) : ShapeEntry :=
  shapeTable[shape.toNat]'shape.isLt

/-- The hits of a table entry at a position: the primary, then the secondary at `(p + off) mod 4096`, both with the
ClusterWord's id (R134, R135). -/
def expandEntry (e : ShapeEntry) (p : Position) (pid : PassthroughId) : List DecodedHit :=
  let primary : DecodedHit := { position := p, size := e.primarySize, passthroughId := pid }
  match e.secondary with
  | none => [primary]
  | some (off, size) => [primary, { position := p + off, size := size, passthroughId := pid }]

/-- `DecodeOne(c)` (R134); the half flag is not read (R132). R134 defines it for a nonzero ClusterWord alone; that the zero
word, which the machine never decodes (R131), has the hit of its fields here, `(0, 1, 0)`, is the model's choice (DESIGN
CHOICE, log entry 8). -/
def decodeOne (c : ClusterWord) : List DecodedHit :=
  expandEntry (shapeEntry (clusterShape c)) (clusterPosition c) (clusterId c)

/-! ### Address Unroller -/

/-- `chipId = position[11:8]` (42_address_unroller.md R160). -/
def chipId (p : Position) : Nat := (p.extractLsb' 8 4).toNat

/-- `stripId = position[7:0]` (R160). -/
def stripId (p : Position) : Nat := (p.extractLsb' 0 8).toNat

/-- `Unroll(position)`: exact on naturals, then placed in the 12-bit field, which nothing overflows (R160, R162). -/
def unroll (p : Position) : Unrolled :=
  if 128 ≤ stripId p then
    { stripIndex := BitVec.ofNat 12 (stripId p - 128 + chipId p * 128), row := 1#1 }
  else
    { stripIndex := BitVec.ofNat 12 (stripId p + chipId p * 128), row := 0#1 }

/-! ### Encoder -/

/-- `nStrips = trunc_2(size)`; size 4 becomes 0 (43_encoder_packer.md R182). -/
def nStrips (h : DecodedHit) : BitVec 2 := h.size.setWidth 2

/-- The record of a hit whose position the unroller has put on its wire (R183). -/
def recordOf (u : Unrolled) (h : DecodedHit) (last : Bool) : Record :=
  recordWord (BitVec.ofBool last) u.row (nStrips h) u.stripIndex h.passthroughId

/-- `EncodeRecord(h, last)` (R183). -/
def encodeRecord (h : DecodedHit) (last : Bool) : Record := recordOf (unroll h.position) h last

/-! ### Packer words -/

/-- A pair word `{a:32, b:32}` (30_encoding.md R77). -/
def pairWord (a b : Record) : Word64 := joinHalves a b

/-- An odd trailing word `{r:32, 0:32}` (30_encoding.md R78). -/
def oddWord (r : Record) : Word64 := joinHalves r 0#32

end Sys2Proof.Machine
end

