-- ==== Sys2Proof/Machine/Flags.lean ====
section
/-!
DEFINITION. The one-bit values that the core computes where it uses them and never stores (spec/10_state.md R28), and
the conditions of its guards and errors.
-/

namespace Sys2Proof.Machine

/-- The LAST indicator of a strip line, `w[63] | w[31]`: the OR of its two half flags (30_encoding.md R72). -/
def lineLast (w : Word64) : Bool := halfFlag (upperHalf w) || halfFlag (lowerHalf w)

/-- The `last` bit of a record, `r[31]` (30_encoding.md R76). -/
def recordLast (r : Record) : Bool := r.getLsbD 31

/-- Two hits overlap: `first.position + first.size > second.position`, exact on naturals, with the untruncated size
(44_overlap_check.md R210). -/
def hitsOverlap (first second : DecodedHit) : Bool :=
  second.position.toNat < first.position.toNat + first.size.toNat

/-- Whether a push finds the queue full, `len(q) = QUEUE_CAPACITY` (60_exceptions.md R233). An unbounded queue is never
full. -/
def queueFull (cfg : Cfg) (q : List ClusterWord) : Bool :=
  match cfg.queueCapacity with
  | none => false
  | some n => q.length == n

/-- Whether a frame fits `LEN_WIDTH`: `vSize` and `HEADER_SIZE + FOOTER_SIZE` are below `2^LEN_WIDTH`
(70_reset_and_hazards.md R266). -/
def lengthFits (cfg : Cfg) (vSize : Nat) : Bool :=
  match cfg.lenWidth with
  | none => true
  | some k => vSize < 2 ^ k && cfg.headerSize + cfg.footerSize < 2 ^ k

/-- The phases in which the host may present a frame (70_reset_and_hazards.md R264). -/
def Phase.presentable : Phase → Bool
  | .idle => true
  | .hdr => false
  | .modhdr => false
  | .strip => false
  | .flush => false
  | .ftr => false
  | .done => true
  | .errLen => true
  | .fault => true

/-- The label of a status value (10_state.md R27). -/
def Status.code : Status → Nat
  | .none => 0
  | .ok => 1
  | .invalidLength => 2
  | .queueOverflow => 3

end Sys2Proof.Machine
end

