-- ==== Sys2Proof/Machine/Ops.lean ====
section
/-!
DEFINITION. The named operations over the state that the meanings share: the streams and the queue, raising a frame
error, frame start, the streaming Packer and adjacency check, and a module's end.
-/

namespace Sys2Proof.Machine

/-! ### Streams (spec/20_memory.md R50) -/

/-- `Emit(w)`: appends to the output stream, and changes nothing already emitted (00_scope.md R11). -/
def State.emit (w : Word64) (s : State) : State := { s with out := s.out ++ [w] }

/-- Emits words in order. -/
def State.emitAll (ws : List Word64) (s : State) : State := { s with out := s.out ++ ws }

/-- An input word has been consumed: `rd <- rd + 1` (10_state.md R22). -/
def State.consume (s : State) : State := { s with rd := s.rd + 1 }

/-- `phase <- P`, the core's form of a jump (00_scope.md R11). -/
def State.goto (p : Phase) (s : State) : State := { s with phase := p }

/-! ### Errors (spec/60_exceptions.md) -/

/-- The two frame errors (R230). The third error kind, OverlapDetected, sets no status: it is the sentinel. -/
inductive FrameError
  | invalidLength
  | queueOverflow
  deriving DecidableEq, Repr

/-- `raise E`: the error's status and terminal phase and nothing else; no state is saved, no mode is switched and no
handler is entered (R231, R233, R236). The next frame is the only way on (R237). -/
def State.raiseError (e : FrameError) (s : State) : State :=
  match e with
  | .invalidLength => { s with status := .invalidLength, phase := .errLen }
  | .queueOverflow => { s with status := .queueOverflow, phase := .fault }

/-! ### Frame start (spec/40_frame_parser.md R101) -/

/-- The registers of the streaming refinement at their cleared values (10_state.md R30), and the model's own wire. -/
def State.clearModule (s : State) : State :=
  { s with held := none, prev := none, ovf := false, mbuf := [], unrolled := Unrolled.idle }

/-- T0 on a frame of `vSize` words: every per-frame element is cleared, then the length check decides (R101). The words
of an earlier frame are no longer supplied (log entry 4). -/
def State.startFrame (vSize : Nat) (s : State) : State :=
  let t := { s.clearModule with vs := vSize, rd := 0, q := [], out := [], input := [] }
  if vSize < t.cfg.headerSize + t.cfg.footerSize then
    State.raiseError .invalidLength { t with fe := 0 }
  else
    { t with fe := vSize - t.cfg.footerSize, status := .none, phase := .hdr }

/-! ### Strip lines (spec/40_frame_parser.md R106, R107) -/

/-- The parser's treatment of one half: a zero half is dropped (41_cluster_decoder.md R131), a nonzero one is pushed, and
a push into a full queue raises QueueOverflow without pushing (60_exceptions.md R233). -/
def State.pushHalf (c : ClusterWord) (s : State) : State :=
  if c = 0#32 then s
  else if queueFull s.cfg s.q then s.raiseError .queueOverflow
  else { s with q := s.q ++ [c] }

/-- A strip line is consumed and its halves are queued, upper before lower; an overflow on the upper half stops the frame
before the lower half is looked at (R106, 60_exceptions.md R235). -/
def State.queueLine (hi lo : ClusterWord) (s : State) : State :=
  let t := s.consume.pushHalf hi
  if t.phase = .fault then t else t.pushHalf lo

/-- FLUSH entry: `held <- none; prev <- none; ovf <- false; mbuf <- []` (R113, T5 and T6). -/
def State.enterFlush (s : State) : State := s.clearModule.goto .flush

/-- The end of a LAST line: FLUSH entry, unless a push has stopped the frame (R107). -/
def State.endLine (s : State) : State := if s.phase = .fault then s else s.enterFlush

/-! ### The streaming adjacency check (spec/44_overlap_check.md R216) -/

/-- `OverlapTrack(h)` (R216). -/
def State.overlapTrack (h : DecodedHit) (s : State) : State :=
  let seen := match s.cfg.overlapCheck, s.prev with
    | .on, some g => hitsOverlap g h
    | .on, none => false
    | .off, _ => false
  { s with ovf := s.ovf || seen, prev := some h }

/-! ### Unroller, Encoder and streaming Packer (spec/42_address_unroller.md, 43_encoder_packer.md) -/

/-- The Address Unroller puts its result for a position on its wire. -/
def State.driveUnroller (p : Position) (s : State) : State := { s with unrolled := unroll p }

/-- Where packed words go: `out` with the adjacency check off, `mbuf` with it on (43_encoder_packer.md R188). -/
def State.sink (w : Word64) (s : State) : State :=
  match s.cfg.overlapCheck with
  | .off => s.emit w
  | .on => { s with mbuf := s.mbuf ++ [w] }

/-- The pair word of the held record and the next one (R184). -/
def State.packPair (a b : Record) (s : State) : State := { s.sink (pairWord a b) with held := none }

/-- The odd-element flush, appended only if it would be nonzero (R185). -/
def State.packOdd (r : Record) (s : State) : State := if oddWord r ≠ 0#64 then s.sink (oddWord r) else s

/-- `PackerAccept(r)` (R188). -/
def State.packerAccept (r : Record) (s : State) : State :=
  match s.held with
  | none => if recordLast r then s.packOdd r else { s with held := some r }
  | some a => s.packPair a r

/-- One hit is unrolled and encoded, and its record goes to the Packer (R183, R188, R164). The record is made from the
unroller's wire, which is idle again afterwards. -/
def State.encodeAndPack (h : DecodedHit) (last : Bool) (s : State) : State :=
  let t := s.driveUnroller h.position
  { t with unrolled := Unrolled.idle }.packerAccept (recordOf t.unrolled h last)

/-! ### Draining the queue (spec/40_frame_parser.md R113, T7) -/

/-- The loop of T7 over one ClusterWord's hits; `fin` says that the queue is now empty, so that the last hit is the
module's final one. -/
def State.acceptHits : List DecodedHit → Bool → State → State
  | [], _, s => s
  | h :: hs, fin, s => State.acceptHits hs fin ((s.overlapTrack h).encodeAndPack h (fin && hs.isEmpty))

/-- The head of the queue is popped. -/
def State.popCluster (s : State) : State := { s with q := s.q.tail }

/-- T7 on the hits of the queue's head: pop it, then accept its hits. -/
def State.takeHits (hs : List DecodedHit) (s : State) : State :=
  let t := s.popCluster
  t.acceptHits hs t.q.isEmpty

/-- T7 on a queued ClusterWord. A zero one is dropped before decoding; no reachable queue holds one (41_cluster_decoder.md
R131, log entry 8). -/
def State.takeCluster (c : ClusterWord) (s : State) : State :=
  if c = 0#32 then s.popCluster else s.takeHits (decodeOne c)

/-- T7 on every ClusterWord of the given list, which is the queue, head first. -/
def State.drain : List ClusterWord → State → State
  | [], s => s
  | c :: cs, s => State.drain cs (s.takeCluster c)

/-! ### The end of a module (spec/40_frame_parser.md R113, T8) -/

/-- With the adjacency check on, the module's output leaves now: the sentinel if an overlap was seen, else the packed
words (T8, 44_overlap_check.md R216). -/
def State.releaseModule (s : State) : State :=
  match s.cfg.overlapCheck with
  | .off => s
  | .on => if s.ovf then s.emit sentinel else s.emitAll s.mbuf

/-- T8. -/
def State.endModule (s : State) : State := { s.releaseModule.clearModule with q := [], phase := .modhdr }

/-! ### Reset and the host's acts (spec/70_reset_and_hazards.md) -/

/-- Reset of the core: every element of 10_state.md R31 at its reset value; the configuration inputs, the host's readiness
and its further acts are the host's and stay (R260). The abandoned frame's words are no longer supplied (log entry 4). -/
def State.resetCore (s : State) : State :=
  { State.reset with cfg := s.cfg, taking := s.taking, schedule := s.schedule }

end Sys2Proof.Machine
end

