-- ==== Sys2Proof/Machine/Cluster.lean ====
section
/-!
DEFINITION. The Cluster Decoder's rows: CW.NOHIT and CW.S0 to CW.S7 (spec/41_cluster_decoder.md R131, R136 to R143).
A queued ClusterWord's row is transition T7 on it (40_frame_parser.md R113): the queue's head is popped, expanded by
its shape's table entry, and its hits are checked, encoded and packed. The half flag is not read (R132).
-/

namespace Sys2Proof.Machine

open Host (Outcome)

/-- T7 with the given hits: the queue's head is popped unread, and the hits are taken in its place. They are the head's own
where the row's operands are, as in every step. For a row whose operands are not the head, of which R136 to R143 and T7 say
nothing, taking the operands' hits is the model's choice (DESIGN CHOICE, log entry 22). -/
def clusterStep (hs : List DecodedHit) (s : State) : Outcome State Fault Refusal :=
  if s.phase = .flush ∧ s.q ≠ [] then .next (s.takeHits hs) else .refused .notEnabled

/-- CW.NOHIT: nothing is pushed, decoded or emitted (R131). The parser makes the test before the push, so a queue holds
no zero ClusterWord; if one stood at the head it would be dropped undecoded (log entry 8). -/
def execCwNohit (s : State) : Outcome State Fault Refusal :=
  if s.phase = .flush ∧ s.q.head? = some 0#32 then .next s.popCluster else .next s

/-- CW.S0: one hit of size 1 (R136). -/
def execCwS0 (_f : BitVec 1) (p : Position) (pid : PassthroughId) (s : State) : Outcome State Fault Refusal :=
  clusterStep (expandEntry (shapeEntry 0#3) p pid) s

/-- CW.S1: a hit of size 1 and one of size 1 at +3 (R137). -/
def execCwS1 (_f : BitVec 1) (p : Position) (pid : PassthroughId) (s : State) : Outcome State Fault Refusal :=
  clusterStep (expandEntry (shapeEntry 1#3) p pid) s

/-- CW.S2: a hit of size 1 and one of size 1 at +2 (R138). -/
def execCwS2 (_f : BitVec 1) (p : Position) (pid : PassthroughId) (s : State) : Outcome State Fault Refusal :=
  clusterStep (expandEntry (shapeEntry 2#3) p pid) s

/-- CW.S3: a hit of size 1 and one of size 2 at +2 (R139). -/
def execCwS3 (_f : BitVec 1) (p : Position) (pid : PassthroughId) (s : State) : Outcome State Fault Refusal :=
  clusterStep (expandEntry (shapeEntry 3#3) p pid) s

/-- CW.S4: one hit of size 2 (R140). -/
def execCwS4 (_f : BitVec 1) (p : Position) (pid : PassthroughId) (s : State) : Outcome State Fault Refusal :=
  clusterStep (expandEntry (shapeEntry 4#3) p pid) s

/-- CW.S5: a hit of size 2 and one of size 1 at +3 (R141). -/
def execCwS5 (_f : BitVec 1) (p : Position) (pid : PassthroughId) (s : State) : Outcome State Fault Refusal :=
  clusterStep (expandEntry (shapeEntry 5#3) p pid) s

/-- CW.S6: one hit of size 3 (R142). -/
def execCwS6 (_f : BitVec 1) (p : Position) (pid : PassthroughId) (s : State) : Outcome State Fault Refusal :=
  clusterStep (expandEntry (shapeEntry 6#3) p pid) s

/-- CW.S7: one hit of size 4 (R143). -/
def execCwS7 (_f : BitVec 1) (p : Position) (pid : PassthroughId) (s : State) : Outcome State Fault Refusal :=
  clusterStep (expandEntry (shapeEntry 7#3) p pid) s

end Sys2Proof.Machine
end

