-- ==== Sys2Proof/Machine/Packer.lean ====
section
/-!
DEFINITION. The rows of the Address Unroller, the Encoder/Packer and the sentinel: UNROLL, REC, OUT.PAIR, OUT.ODD,
OUT.SENTINEL (spec/42_address_unroller.md R160, 43_encoder_packer.md R183 to R185, 44_overlap_check.md R213). UNROLL,
REC, OUT.PAIR and OUT.ODD are the operations that transition T7 is made of (40_frame_parser.md R113); a step runs
them inside a ClusterWord's row (log entry 6). Hits, last bits and records are taken as given (DESIGN CHOICE, log entry 22).
-/

namespace Sys2Proof.Machine

open Host (Outcome)

/-- UNROLL: the unroller's result for a position, on its wire; no side effect and no failure mode (R160). -/
def execUnroll (p : Position) (s : State) : Outcome State Fault Refusal :=
  .next (s.driveUnroller p)

/-- REC: the record of a hit is made and handed to the Packer (R183, R188). -/
def execEncodeHit (h : DecodedHit) (last : Bool) (s : State) : Outcome State Fault Refusal :=
  if s.phase = .flush then .next (s.encodeAndPack h last) else .refused .notEnabled

/-- OUT.PAIR: the second record of a pair has arrived, and the pair word leaves the Packer (R184). -/
def execOutPair (a b : Record) (s : State) : Outcome State Fault Refusal :=
  if s.phase = .flush ∧ s.held = some a then .next (s.packPair a b) else .refused .notEnabled

/-- OUT.ODD: the final record finds no held one and leaves alone (R185). -/
def execOutOdd (r : Record) (s : State) : Outcome State Fault Refusal :=
  if s.phase = .flush ∧ s.held = none ∧ recordLast r = true then .next (s.packOdd r) else .refused .notEnabled

/-- OUT.SENTINEL: the end of a module in which an overlap was seen; the sentinel replaces its packed words (R213, and T8
of 40_frame_parser.md R113). -/
def execOutSentinel (s : State) : Outcome State Fault Refusal :=
  if s.phase = .flush ∧ s.q = [] ∧ s.cfg.overlapCheck = .on ∧ s.ovf = true then .next s.endModule
  else .refused .notEnabled

end Sys2Proof.Machine
end

