-- ==== Sys2Proof/Machine/Parser.lean ====
section
/-!
DEFINITION. The Frame Parser's rows: START, HDR, MODHDR, MODEND, LINE.*, MODCUT, FLUSH, FTR, FRAME.END
(spec/40_frame_parser.md R101 to R113). Each meaning holds its transition's phase and guard and refuses by the name
`notEnabled` where they do not hold, since R113 lets nothing else fire there (DESIGN CHOICE, log entry 11). A row's operand
is the word that its transition reads; that it is taken as given, whatever `InWord(rd)` is, is the model's choice (DESIGN
CHOICE, log entry 22).
-/

namespace Sys2Proof.Machine

open Host (Outcome)

/-- START, T0 (R101). A frame presented while one runs is refused (70_reset_and_hazards.md R264), and so is one that does
not fit `LEN_WIDTH` (R266). -/
def execStart (vSize : Nat) (s : State) : Outcome State Fault Refusal :=
  if s.phase.presentable = false then .refused .frameInProgress
  else if lengthFits s.cfg vSize = false then .refused .lengthExceedsCounter
  else .next (s.startFrame vSize)

/-- HDR, T1: a header word is copied (R102). -/
def execHdr (w : Word64) (s : State) : Outcome State Fault Refusal :=
  if s.phase = .hdr ∧ s.rd < s.cfg.headerSize then .next (s.emit w).consume else .refused .notEnabled

/-- T2, the second transition of the HDR rule: the header is complete (R102). It reads no word and is no row of the
opcode table. -/
def State.leaveHeader (s : State) : State := s.goto .modhdr

/-- MODHDR, T3: a module-header word is copied and opens a module with an empty queue (R105). -/
def execModhdr (w : Word64) (s : State) : Outcome State Fault Refusal :=
  if s.phase = .modhdr ∧ s.rd < s.fe then .next ({ (s.emit w).consume with q := [] }.goto .strip)
  else .refused .notEnabled

/-- MODEND, T4: the module region is exhausted (R103). -/
def execModend (s : State) : Outcome State Fault Refusal :=
  if s.phase = .modhdr ∧ s.rd = s.fe then .next (s.goto .ftr) else .refused .notEnabled

/-- LINE.CONT, T5: the halves are queued and the phase stays STRIP (R106). -/
def execLineCont (hi lo : ClusterWord) (s : State) : Outcome State Fault Refusal :=
  if s.phase = .strip ∧ s.rd < s.fe then .next (s.queueLine hi lo) else .refused .notEnabled

/-- LINE.LAST.HI, T5: the halves are queued and the module ends (R106, R107). -/
def execLineLastHi (hi lo : ClusterWord) (s : State) : Outcome State Fault Refusal :=
  if s.phase = .strip ∧ s.rd < s.fe then .next (s.queueLine hi lo).endLine else .refused .notEnabled

/-- LINE.LAST.LO, T5: as LINE.LAST.HI (R107; 30_encoding.md R80). -/
def execLineLastLo (hi lo : ClusterWord) (s : State) : Outcome State Fault Refusal :=
  if s.phase = .strip ∧ s.rd < s.fe then .next (s.queueLine hi lo).endLine else .refused .notEnabled

/-- LINE.LAST.BOTH, T5: as LINE.LAST.HI (R107; 30_encoding.md R80). -/
def execLineLastBoth (hi lo : ClusterWord) (s : State) : Outcome State Fault Refusal :=
  if s.phase = .strip ∧ s.rd < s.fe then .next (s.queueLine hi lo).endLine else .refused .notEnabled

/-- MODCUT, T6: a module that reaches the footer start with no LAST line ends there (R108). -/
def execModcut (s : State) : Outcome State Fault Refusal :=
  if s.phase = .strip ∧ s.rd = s.fe then .next s.enterFlush else .refused .notEnabled

/-- FLUSH (R109), in its streaming form: T7 on every ClusterWord still queued, then T8 (R113). With the queue empty it is
T8 alone, which is how `step` runs it. -/
def execFlush (s : State) : Outcome State Fault Refusal :=
  if s.phase = .flush then .next (s.drain s.q).endModule else .refused .notEnabled

/-- FTR, T9: a footer word is copied (R110). -/
def execFtr (w : Word64) (s : State) : Outcome State Fault Refusal :=
  if s.phase = .ftr ∧ s.rd < s.vs then .next (s.emit w).consume else .refused .notEnabled

/-- FRAME.END, T10: the frame is complete (R111). -/
def execFrameEnd (s : State) : Outcome State Fault Refusal :=
  if s.phase = .ftr ∧ s.rd = s.vs then .next ({ s with status := .ok }.goto .done) else .refused .notEnabled

end Sys2Proof.Machine
end

