-- ==== Sys2Proof/Machine/Dispatch.lean ====
section
/-!
DEFINITION. One arm for each row of spec/opcode_table.json.
-/

namespace Sys2Proof.Machine

/-- The meaning of each instruction. -/
def exec (i : Instr) (s : State) : Host.Outcome State Fault Refusal :=
  match i with
  | .start vSize => Sys2Proof.Machine.execStart vSize s
  | .hdr w => Sys2Proof.Machine.execHdr w s
  | .modhdr w => Sys2Proof.Machine.execModhdr w s
  | .modend => Sys2Proof.Machine.execModend s
  | .lineCont hi lo => Sys2Proof.Machine.execLineCont hi lo s
  | .lineLastHi hi lo => Sys2Proof.Machine.execLineLastHi hi lo s
  | .lineLastLo hi lo => Sys2Proof.Machine.execLineLastLo hi lo s
  | .lineLastBoth hi lo => Sys2Proof.Machine.execLineLastBoth hi lo s
  | .modcut => Sys2Proof.Machine.execModcut s
  | .flush => Sys2Proof.Machine.execFlush s
  | .ftr w => Sys2Proof.Machine.execFtr w s
  | .frameEnd => Sys2Proof.Machine.execFrameEnd s
  | .cwNohit => Sys2Proof.Machine.execCwNohit s
  | .cwS0 f p pid => Sys2Proof.Machine.execCwS0 f p pid s
  | .cwS1 f p pid => Sys2Proof.Machine.execCwS1 f p pid s
  | .cwS2 f p pid => Sys2Proof.Machine.execCwS2 f p pid s
  | .cwS3 f p pid => Sys2Proof.Machine.execCwS3 f p pid s
  | .cwS4 f p pid => Sys2Proof.Machine.execCwS4 f p pid s
  | .cwS5 f p pid => Sys2Proof.Machine.execCwS5 f p pid s
  | .cwS6 f p pid => Sys2Proof.Machine.execCwS6 f p pid s
  | .cwS7 f p pid => Sys2Proof.Machine.execCwS7 f p pid s
  | .unroll p => Sys2Proof.Machine.execUnroll p s
  | .encodeHit h last => Sys2Proof.Machine.execEncodeHit h last s
  | .outPair a b => Sys2Proof.Machine.execOutPair a b s
  | .outOdd r => Sys2Proof.Machine.execOutOdd r s
  | .outSentinel => Sys2Proof.Machine.execOutSentinel s

end Sys2Proof.Machine
end

