-- ==== Sys2Proof/Machine/Fetch.lean ====
section
/-!
DEFINITION. What a step has in front of it: an act of the host that is due, or the transition of
spec/40_frame_parser.md R113 that the phase and its guards enable, with the slot and the bits of the word it reads.
-/

namespace Sys2Proof.Machine

open Host (Outcome)

/-- What the next step does. -/
inductive Move
  /-- Runs the instruction that the slot's bits decode to. -/
  | run (slot : Slot) (bits : Word64)
  /-- T2: phase HDR with the header complete; no row of the opcode table. -/
  | headerEnd
  /-- An act of the host other than presenting a frame. -/
  | host (input : HostInput)
  /-- Nothing is enabled: the core waits for a frame (70_reset_and_hazards.md R261) or for the next input word (R263). -/
  | wait
  /-- The phase must have an enabled transition and has none; no state that meets `Inv` is like this. -/
  | stuck
  deriving DecidableEq, Repr

/-- `InWord(rd)` in a slot, or waiting while the host has not supplied it (70_reset_and_hazards.md R263). -/
def readWord (slot : Slot) (s : State) : Move :=
  match s.input[s.rd]? with
  | some w => .run slot w
  | none => .wait

/-- A region's transition: a word below its end, the given move at its end (R113). -/
def inRegion (limit : Nat) (slot : Slot) (atEnd : Move) (s : State) : Move :=
  if s.rd < limit then readWord slot s else if s.rd = limit then atEnd else .stuck

/-- The enabled transition (R113): T1 or T2, T3 or T4, T5 or T6, T7 or T8, T9 or T10. -/
def fetch (s : State) : Move :=
  match s.phase with
  | .idle => .wait
  | .hdr => inRegion s.cfg.headerSize .header .headerEnd s
  | .modhdr => inRegion s.fe .moduleHeader (.run .regionEnd 0#64) s
  | .strip => inRegion s.fe .stripLine (.run .regionCut 0#64) s
  | .flush =>
    match s.q with
    | c :: _ => .run .half (c.setWidth 64)
    | [] => if s.cfg.overlapCheck = .on ∧ s.ovf = true then .run .packed sentinel else .run .moduleEnd 0#64
  | .ftr => inRegion s.vs .footer (.run .frameEnd 0#64) s
  | .done => .wait
  | .errLen => .wait
  | .fault => .wait

/-- The host's act in front of a step: presenting a frame is START (R101), the others are no row of the table. -/
def actMove : HostAct → Move
  | .present vSize => .run (.frameStart vSize) 0#64
  | .give i => .host i

/-- What the next step does: an act of the host that is due comes before the core's own transition. -/
def nextMove (s : State) : Move :=
  match s.schedule with
  | { after := 0, act := a } :: _ => actMove a
  | { after := _ + 1, act := _ } :: _ => fetch s
  | [] => fetch s

/-- The host's schedule moves on by one step: an act that is due leaves it, one that is not comes a step nearer. -/
def State.clock (s : State) : State :=
  match s.schedule with
  | { after := 0, act := _ } :: es => { s with schedule := es }
  | { after := n + 1, act := a } :: es => { s with schedule := { after := n, act := a } :: es }
  | [] => s

/-- An act of the host other than presenting a frame (70_reset_and_hazards.md R260, R262, R263). A change of the
configuration while a frame runs is refused (R262). -/
def hostInput (i : HostInput) (s : State) : Outcome State Fault Refusal :=
  match i with
  | .configure cfg =>
    if s.phase.presentable = false ∧ cfg ≠ s.cfg then .refused .configChangedInFrame else .next { s with cfg := cfg }
  | .supply w => .next { s with input := s.input ++ [w] }
  | .takeOutput b => .next { s with taking := b }
  | .reset => .next s.resetCore

/-- A transition that emits waits while the host does not take words: the core drops none (R263). -/
def holdBack (s : State) (o : Outcome State Fault Refusal) : Outcome State Fault Refusal :=
  match o with
  | .next t => if s.taking = false ∧ s.out.length < t.out.length then .next s else .next t
  | .fault r => .fault r
  | .refused r => .refused r

/-! ### The host's placing of one word -/

/-- A list with `w` at index `n`, the words before it kept and zero words where there are none. -/
def placeAt (n : Nat) (w : Word64) (ws : List Word64) : List Word64 :=
  (ws ++ List.replicate (n - ws.length) 0#64).take n ++ [w]

/-- `s` with no act of the host in front of its next step and the host taking words. -/
def State.quiet (s : State) : State := { s with taking := true, schedule := [] }

/-- `s` with a strip line as the next input word, inside the module region. -/
def State.placeLine (w : Word64) (s : State) : State :=
  { s.quiet with phase := .strip, fe := max s.fe (s.rd + 1), vs := max s.vs (max s.fe (s.rd + 1)),
                 input := placeAt s.rd w s.input }

/-- `s` with a ClusterWord at the head of the queue that phase FLUSH drains. -/
def State.placeCluster (c : ClusterWord) (s : State) : State :=
  { s.quiet with phase := .flush, q := c :: s.q.tail }

/-- `s` with a position on its way to the Address Unroller, in a ClusterWord of shape 0 at the queue's head; its half flag
is set so that it is nonzero at position 0 too. -/
def State.placePosition (p : Position) (s : State) : State := s.placeCluster (clusterWord 1#1 p 0#3 0#16)

end Sys2Proof.Machine
end

