-- ==== Sys2Proof/Machine/Step.lean ====
section
/-!
DEFINITION. One step: the host's due act, or the one enabled transition of spec/40_frame_parser.md R113.
-/

namespace Sys2Proof.Machine

/-- A step. The schedule of the host's acts moves on, and the machine does what `nextMove` says: runs the decoded
instruction, leaves the header (T2), takes an act of the host, or waits. -/
def step (s : State) : Host.Outcome State Fault Refusal :=
  match nextMove s with
  | .run slot bits =>
    match decode slot bits with
    | .ok i => holdBack s.clock (exec i s.clock)
    | .error _ => .refused .undecodable
  | .headerEnd => .next s.clock.leaveHeader
  | .host i => hostInput i s.clock
  | .wait => .next s.clock
  | .stuck => .fault .noTransition

/-- `s` with the table's word placed where the next step reads it, by the slot of its width (log entry 7). -/
def State.withFetchWord (s : State) (nbits w : Nat) : State :=
  if nbits ≤ 16 then s.placePosition (BitVec.ofNat 12 w)
  else if nbits ≤ 32 then s.placeCluster (BitVec.ofNat 32 w)
  else s.placeLine (BitVec.ofNat 64 w)

end Sys2Proof.Machine
end

