-- ==== Sys2Proof/Machine/Reference.lean ====
section
/-!
DEFINITION. The spec's functional definitions, which do not mention the step machine: a module's output
(spec/41_cluster_decoder.md R145, 43_encoder_packer.md R186, 44_overlap_check.md R214) and a whole frame
(40_frame_parser.md R100). The step machine is another definition; that the two agree is a claim.
-/

namespace Sys2Proof.Machine

/-! ### One module -/

/-- `Decode(q)`: the hits of a module's queue in order (41_cluster_decoder.md R145). A zero ClusterWord, which no queue of a
run holds (10_state.md R24), has the hit that `decodeOne` gives it (DESIGN CHOICE, log entry 8). -/
def decodeQueue (q : List ClusterWord) : List DecodedHit := q.flatMap decodeOne

/-- The records of a module's hits; the final one alone has `last = 1` (43_encoder_packer.md R181, R183). -/
def moduleRecords : List DecodedHit → List Record
  | [] => []
  | [h] => [encodeRecord h true]
  | h :: h' :: hs => encodeRecord h false :: moduleRecords (h' :: hs)

/-- Records two at a time, an odd final one alone (R184, R185). -/
def packRecords : List Record → List Word64
  | [] => []
  | [r] => [oddWord r]
  | a :: b :: rs => pairWord a b :: packRecords rs

/-- `PlainOutput(hs)` (R186). -/
def plainOutput (hs : List DecodedHit) : List Word64 := packRecords (moduleRecords hs)

/-- `Overlaps(hs)`: some consecutive pair overlaps (44_overlap_check.md R212). -/
def overlaps : List DecodedHit → Bool
  | [] => false
  | [_] => false
  | g :: h :: hs => hitsOverlap g h || overlaps (h :: hs)

/-- `ModuleOutput(q)` (44_overlap_check.md R214). -/
def moduleOutput (check : OverlapCheck) (q : List ClusterWord) : List Word64 :=
  if check = .on ∧ overlaps (decodeQueue q) = true then [sentinel] else plainOutput (decodeQueue q)

/-- `Unpack(ws)`: the records up to and with the one whose `last` bit is set (43_encoder_packer.md R189). -/
def unpack : List Word64 → List Record
  | [] => []
  | w :: ws =>
    if recordLast (upperHalf w) then [upperHalf w]
    else if recordLast (lowerHalf w) then [upperHalf w, lowerHalf w]
    else upperHalf w :: lowerHalf w :: unpack ws

/-! ### One frame -/

/-- The nonzero halves of a strip line, upper first (40_frame_parser.md R106). -/
def lineClusters (w : Word64) : List ClusterWord := [upperHalf w, lowerHalf w].filter (· ≠ 0#32)

/-- One push, or `none` where the queue is full (60_exceptions.md R233). -/
def pushOne (cfg : Cfg) (q : List ClusterWord) (c : ClusterWord) : Option (List ClusterWord) :=
  if queueFull cfg q then none else some (q ++ [c])

/-- The pushes of a strip line in order, or `none` where one overflows. -/
def pushLine (cfg : Cfg) (q : List ClusterWord) (w : Word64) : Option (List ClusterWord) :=
  (lineClusters w).foldlM (pushOne cfg) q

/-- A frame's result: its status and its output words (00_scope.md R6). -/
structure FrameResult where
  status : Status
  out : List Word64
  deriving DecidableEq, Repr

/-- Words in front of a result's output. -/
def FrameResult.prepend (ws : List Word64) (r : FrameResult) : FrameResult := { r with out := ws ++ r.out }

/-- The module region's words (R100, R104 to R109). The first argument is the open module's queue, `none` between
modules; a module still open at the end of the region ends there (R108). -/
def moduleRegion (cfg : Cfg) : Option (List ClusterWord) → List Word64 → FrameResult
  | none, [] => { status := .ok, out := [] }
  | some q, [] => { status := .ok, out := moduleOutput cfg.overlapCheck q }
  | none, w :: ws => (moduleRegion cfg (some []) ws).prepend [w]
  | some q, w :: ws =>
    match pushLine cfg q w with
    | none => { status := .queueOverflow, out := [] }
    | some q' =>
      if lineLast w then (moduleRegion cfg none ws).prepend (moduleOutput cfg.overlapCheck q')
      else moduleRegion cfg (some q') ws

/-- The footer follows the module region of a frame that has not stopped on an error. -/
def FrameResult.addFooter (footer : List Word64) (r : FrameResult) : FrameResult :=
  if r.status = .ok then { r with out := r.out ++ footer } else r

/-- `Frame` (R100): the length check, the header, the module region, the footer. A finite queue's overflow stops the frame
with the words already emitted (60_exceptions.md R233). -/
def frameResult (cfg : Cfg) (ws : List Word64) : FrameResult :=
  if ws.length < cfg.headerSize + cfg.footerSize then { status := .invalidLength, out := [] }
  else
    let fe := ws.length - cfg.footerSize
    ((moduleRegion cfg none ((ws.take fe).drop cfg.headerSize)).addFooter (ws.drop fe)).prepend
      (ws.take cfg.headerSize)

/-- The modules of a module region, each its module-header word and its queue, for an unbounded queue (20_memory.md R52). The
first argument is the open module. -/
def regionModules : Option (Word64 × List ClusterWord) → List Word64 → List (Word64 × List ClusterWord)
  | none, [] => []
  | some m, [] => [m]
  | none, w :: ws => regionModules (some (w, [])) ws
  | some (header, q), w :: ws =>
    if lineLast w then (header, q ++ lineClusters w) :: regionModules none ws
    else regionModules (some (header, q ++ lineClusters w)) ws

/-- Whether module-region words end between modules: their last module, if there is one, has had its LAST line
(20_memory.md R52). The first argument says whether a module is open. -/
def regionClosed : Bool → List Word64 → Bool
  | inModule, [] => !inModule
  | false, _ :: ws => regionClosed true ws
  | true, w :: ws => regionClosed (!lineLast w) ws

/-- The words that a module adds to the output after its header (20_memory.md R62). -/
def moduleWordCount (check : OverlapCheck) (q : List ClusterWord) : Nat :=
  if check = .on ∧ overlaps (decodeQueue q) = true then 1 else ((decodeQueue q).length + 1) / 2

end Sys2Proof.Machine
end

