-- ==== Sys2Proof/Safety.lean ====
section
/-!
DEFINITION. What a reachable state is like (spec/10_state.md R32 and the rules each part cites), and the other terms
that claims use.
-/

namespace Sys2Proof.Machine

/-- The transition of a frame in progress: a phase in which the host may not present a frame
(70_reset_and_hazards.md R264). -/
abbrev State.running (s : State) : Prop := s.phase.presentable = false

/-- The footer start is within the frame, and while the frame runs the map is that of its configuration, with counters that
fit `LEN_WIDTH` (10_state.md R23, R32; 70_reset_and_hazards.md R266). -/
abbrev State.frameMapOk (s : State) : Prop :=
  s.fe ≤ s.vs ∧
  (s.running →
    s.cfg.headerSize ≤ s.fe ∧ s.fe + s.cfg.footerSize = s.vs ∧ lengthFits s.cfg s.vs = true ∧ s.status = .none)

/-- The read index is in its phase's region (10_state.md R32). -/
abbrev State.readIndexOk (s : State) : Prop :=
  match s.phase with
  | .idle => s.rd = 0
  | .hdr => s.rd ≤ s.cfg.headerSize
  | .modhdr => s.cfg.headerSize ≤ s.rd ∧ s.rd ≤ s.fe
  | .strip => s.cfg.headerSize ≤ s.rd ∧ s.rd ≤ s.fe
  | .flush => s.cfg.headerSize ≤ s.rd ∧ s.rd ≤ s.fe
  | .ftr => s.fe ≤ s.rd ∧ s.rd ≤ s.vs
  | .done => s.rd = s.vs
  | .errLen => s.rd = 0
  | .fault => s.rd ≤ s.vs

/-- The queue holds nonzero ClusterWords, no more than its capacity, and none outside a module (10_state.md R24, R32). A
frame stopped by QueueOverflow keeps its queue (95_test_vectors.md EX-2, log entry 9). -/
abbrev State.queueOk (s : State) : Prop :=
  (∀ c ∈ s.q, c ≠ 0#32) ∧
  (s.phase ≠ .strip → s.phase ≠ .flush → s.phase ≠ .fault → s.q = []) ∧
  (s.running → ∀ n ∈ s.cfg.queueCapacity, s.q.length ≤ n)

/-- The registers of the streaming refinement are clear outside FLUSH (R30, 40_frame_parser.md R115). Within it the held
record is no final one, none is held once the queue is drained, and nothing is held back or flagged while the adjacency
check is off. -/
abbrev State.flushOk (s : State) : Prop :=
  (s.phase ≠ .flush → s.held = none ∧ s.prev = none ∧ s.ovf = false ∧ s.mbuf = []) ∧
  (∀ r ∈ s.held, recordLast r = false) ∧
  (s.q = [] → s.held = none) ∧
  (s.phase = .flush → s.cfg.overlapCheck = .off → s.ovf = false ∧ s.mbuf = [])

/-- The status is its phase's (10_state.md R27). -/
abbrev State.statusOk (s : State) : Prop :=
  match s.phase with
  | .done => s.status = .ok
  | .errLen => s.status = .invalidLength ∧ s.out = [] ∧ s.fe = 0
  | .fault => s.status = .queueOverflow
  | .idle => s.status = .none ∧ s.out = []
  | .hdr => s.status = .none
  | .modhdr => s.status = .none
  | .strip => s.status = .none
  | .flush => s.status = .none
  | .ftr => s.status = .none

/-- The invariant of the step machine; `unrolled` is idle at every step boundary (log entry 5). -/
abbrev State.Inv (s : State) : Prop :=
  s.frameMapOk ∧ s.readIndexOk ∧ s.queueOk ∧ s.flushOk ∧ s.statusOk ∧ s.unrolled = Unrolled.idle

/-- The frame map and the queue of a frame admitted past the length check, in every phase from HDR to DONE or FAULT
(10_state.md R32). The configuration is the frame's own: once the frame has ended the host may set the next one's
(70_reset_and_hazards.md R262, log entry 17). FAULT keeps its queue, so its line of R32 is that of an unbounded queue (log
entry 9). -/
abbrev State.admittedFrameOk (s : State) : Prop :=
  s.phase ≠ .idle → s.phase ≠ .errLen →
    s.cfg.headerSize ≤ s.fe ∧ s.fe ≤ s.vs ∧
    (s.cfg.queueCapacity = none → s.phase ≠ .strip → s.phase ≠ .flush → s.q = [])

/-- A state that FLUSH is entered in: the streaming registers are clear (40_frame_parser.md R113, T5 and T6). -/
abbrev State.atFlushEntry (s : State) : Prop :=
  s.phase = .flush ∧ s.held = none ∧ s.prev = none ∧ s.ovf = false ∧ s.mbuf = []

/-- No act of the host is due at the next step, and the host takes emitted words. -/
abbrev State.undisturbed (s : State) : Prop := s.schedule = [] ∧ s.taking = true

/-- The core's own elements (10_state.md R21 to R25, R27, R30), without the host's side. -/
structure CoreView where
  phase : Phase
  rd : Nat
  vs : Nat
  fe : Nat
  q : List ClusterWord
  out : List Word64
  status : Status
  held : Option Record
  prev : Option DecodedHit
  ovf : Bool
  mbuf : List Word64
  unrolled : Unrolled
  deriving DecidableEq, Repr

/-- The core's own part of a state. -/
def State.coreView (s : State) : CoreView :=
  { phase := s.phase, rd := s.rd, vs := s.vs, fe := s.fe, q := s.q, out := s.out, status := s.status, held := s.held,
    prev := s.prev, ovf := s.ovf, mbuf := s.mbuf, unrolled := s.unrolled }

/-- `k` steps from `s` all answer a next state, and the last is `t`. -/
def runsTo : Nat → State → State → Prop
  | 0, s, t => s = t
  | k + 1, s, t => ∃ u, step s = .next u ∧ runsTo k u t

end Sys2Proof.Machine
end

