-- ==== Sys2Proof/Certificates/Slice0/Obligations.lean ====
section
/-!
DEFINITION. The statements for the provers, in the order of the spec's rules. A state that the statement gives as
`{ s with … }` says the frame too: every field not named is unchanged.
-/

open Sys2Proof Sys2Proof.Machine

/-! ### Encoding (spec/30_encoding.md) -/

/-- Words written out bit by bit from the formats decode to the instructions they stand for: WX-1's strip line and its
upper half, the example of R106, DC-7, UR-7, EN-2, and the three kinds of packed word (spec/95_test_vectors.md). The core
makes records and packed words and never decodes them: that the slots `.record` and `.packed` decode at all is the model's
choice (log entry 21). -/
def Obligations.WrittenWordsDecode : Prop :=
  decode .stripLine 0x802800AB00000000#64 = .ok (.lineLastHi 0x802800AB#32 0#32) ∧
  decode .stripLine 0x0000000090014444#64 = .ok (.lineLastLo 0#32 0x90014444#32) ∧
  decode .stripLine 0x8000000080000000#64 = .ok (.lineLastBoth 0x80000000#32 0x80000000#32) ∧
  decode .half 0x802800AB#64 = .ok (.cwS0 1#1 5#12 0xAB#16) ∧
  decode .half 0x00531234#64 = .ok (.cwS3 0#1 10#12 0x1234#16) ∧
  decode .half 0x082F1234#64 = .ok (.cwS7 0#1 0x105#12 0x1234#16) ∧
  decode .half 0#64 = .ok .cwNohit ∧
  decode .position 0x105#64 = .ok (.unroll 0x105#12) ∧
  decode .record 0x20851234#64 = .ok (.encodeHit ⟨0x105#12, 2#3, 0x1234#16⟩ false) ∧
  decode .packed 0x100A1234A00C1234#64 = .ok (.outPair 0x100A1234#32 0xA00C1234#32) ∧
  decode .packed 0xC07F567800000000#64 = .ok (.outOdd 0xC07F5678#32) ∧
  decode .packed 0xFFFFFFFFFFFFFFFF#64 = .ok .outSentinel

/-- Decoding the slot and the bits of a well-formed instruction gives it back, with every operand at every value. For REC,
OUT.PAIR, OUT.ODD, OUT.SENTINEL and the rows that read no word, the decoding is the model's own (DESIGN CHOICE, log entry
21): the core makes records and packed words and never decodes them. -/
def Obligations.DecodeEncodeAgree : Prop :=
  ∀ i : Instr, i.wellFormed = true → decode (encode i).1 (encode i).2 = .ok i

/-- Bits that decode are those of a well-formed instruction: no bit is dropped, and no two words of a slot share an
instruction. For the slots `.record` and `.packed` and those that read no word, the decoding and its named rejections are the
model's own (DESIGN CHOICE, log entry 21), and so is the rejection of bits above a format's width in any slot. -/
def Obligations.DecodedBitsReencode : Prop :=
  ∀ (slot : Slot) (w : Word64) (i : Instr), decode slot w = .ok i → i.wellFormed = true ∧ encode i = (slot, w)

/-- R81: every strip line and every ClusterWord has a meaning, and no step ever refuses a word for its bits. -/
def Obligations.NoWordIsRefusedForItsBits : Prop :=
  (∀ w : Word64, ∃ i, decode .stripLine w = .ok i) ∧
  (∀ c : ClusterWord, ∃ i, decode .half (c.setWidth 64) = .ok i) ∧
  (∀ s : State, step s ≠ .refused .undecodable)

/-- The second stage of R80: the flags alone select a strip line's row, the all-zero test comes before the shape code, and
the shape code alone selects a nonzero ClusterWord's row. -/
def Obligations.BitsSelectTheRow : Prop :=
  (∀ w : Word64,
    (w.getLsbD 63 = false ∧ w.getLsbD 31 = false ↔ decode .stripLine w = .ok (.lineCont (upperHalf w) (lowerHalf w))) ∧
    (w.getLsbD 63 = true ∧ w.getLsbD 31 = false ↔ decode .stripLine w = .ok (.lineLastHi (upperHalf w) (lowerHalf w))) ∧
    (w.getLsbD 63 = false ∧ w.getLsbD 31 = true ↔ decode .stripLine w = .ok (.lineLastLo (upperHalf w) (lowerHalf w))) ∧
    (w.getLsbD 63 = true ∧ w.getLsbD 31 = true ↔ decode .stripLine w = .ok (.lineLastBoth (upperHalf w) (lowerHalf w)))) ∧
  (∀ c : ClusterWord, c = 0#32 ↔ decode .half (c.setWidth 64) = .ok .cwNohit) ∧
  (∀ (f : BitVec 1) (p : Position) (sh : BitVec 3) (pid : PassthroughId), clusterWord f p sh pid ≠ 0#32 →
    decode .half ((clusterWord f p sh pid).setWidth 64) = .ok (decodeShape sh f p pid))

/-- R72: the LAST indicator of a strip line is the OR of its bits 63 and 31, the half flags of its halves; a half flag
counts in the nonzero test and has no other effect on decoding; a set LAST indicator ends the module. In the last clause
the line is the one given; for one that is not `InWord(rd)` it says what the model does (log entry 22). In the third clause
the word without the flag may be zero; that it has hits at all is the model's choice (log entry 8). -/
def Obligations.LastIndicatorAndHalfFlags : Prop :=
  (∀ w : Word64, lineLast w = (w.getLsbD 63 || w.getLsbD 31)) ∧
  (∀ w : Word64, lineLast w = (halfFlag (upperHalf w) || halfFlag (lowerHalf w))) ∧
  (∀ (p : Position) (sh : BitVec 3) (pid : PassthroughId),
    decodeOne (clusterWord 1#1 p sh pid) = decodeOne (clusterWord 0#1 p sh pid)) ∧
  (∀ (p : Position) (sh : BitVec 3) (pid : PassthroughId), clusterWord 1#1 p sh pid ≠ 0#32) ∧
  (∀ (w : Word64) (s : State), s.phase = .strip → s.rd < s.fe → s.cfg.queueCapacity = none →
    ∃ i t, decode .stripLine w = .ok i ∧ exec i s = .next t ∧ t.phase = if lineLast w then .flush else .strip)

/-! ### Reset (spec/10_state.md, 70_reset_and_hazards.md) -/

/-- R31: the reset value of every element. -/
def Obligations.ResetValues : Prop :=
  let r := State.reset
  r.phase = .idle ∧ r.rd = 0 ∧ r.vs = 0 ∧ r.fe = 0 ∧ r.q = [] ∧ r.out = [] ∧ r.status = .none ∧ r.held = none ∧
  r.prev = none ∧ r.ovf = false ∧ r.mbuf = []

/-- R260: reset lands in any phase and sets every element of the core to its reset value. That it leaves the host's side,
the configuration, the readiness and the further acts, is the model's reading (log entry 19). The schedule that gives it is
the model's own (log entry 1), and so are the abandoned frame's words, no longer supplied (log entry 4), and the unroller's
idle wire (log entry 5). -/
def Obligations.ResetAtAnyTime : Prop :=
  ∀ (s : State) (es : List HostEvent), s.schedule = ⟨0, .give .reset⟩ :: es →
    step s = .next { State.reset with cfg := s.cfg, taking := s.taking, schedule := es }

/-! ### Frame start (spec/40_frame_parser.md R101, 70_reset_and_hazards.md) -/

/-- R101: START clears every per-frame element, then refuses a frame too short for its header and footer with
InvalidLength, or admits it. The cleared `input` and `unrolled` are the model's own (log entries 4 and 5). -/
def Obligations.StartClearsAndChecksLength : Prop :=
  ∀ (v : Nat) (s : State), s.phase.presentable = true → lengthFits s.cfg v = true →
    (v < s.cfg.headerSize + s.cfg.footerSize →
      exec (.start v) s = .next
        { s with
          vs := v, rd := 0, q := [], out := [], held := none, prev := none, ovf := false, mbuf := []
          fe := 0, status := .invalidLength, phase := .errLen
          input := [], unrolled := Unrolled.idle }) ∧
    (s.cfg.headerSize + s.cfg.footerSize ≤ v →
      exec (.start v) s = .next
        { s with
          vs := v, rd := 0, q := [], out := [], held := none, prev := none, ovf := false, mbuf := []
          fe := v - s.cfg.footerSize, status := .none, phase := .hdr
          input := [], unrolled := Unrolled.idle })

/-- R264: a frame can be presented in IDLE, DONE, ERR_LEN and FAULT, and in no other phase. That this refusal comes before
that of R266 is the model's reading (log entry 14). -/
def Obligations.FramesDoNotOverlap : Prop :=
  ∀ (v : Nat) (s : State),
    (s.phase ∉ [Phase.idle, .done, .errLen, .fault] → exec (.start v) s = .refused .frameInProgress) ∧
    (s.phase ∈ [Phase.idle, .done, .errLen, .fault] → lengthFits s.cfg v = true → ∃ t, exec (.start v) s = .next t)

/-- R266: with a finite `LEN_WIDTH` a frame that does not fit is refused, and `rd`, `vs` and `fe` stay below
`2^LEN_WIDTH` in every running state that a step reaches from one that meets the invariant. That the refusal comes before the
length check of R101 is the model's reading (log entry 14). -/
def Obligations.CountersNeverWrap : Prop :=
  (∀ (v k : Nat) (s : State), s.phase.presentable = true → s.cfg.lenWidth = some k →
    (2 ^ k ≤ v ∨ 2 ^ k ≤ s.cfg.headerSize + s.cfg.footerSize) →
    exec (.start v) s = .refused .lengthExceedsCounter) ∧
  (∀ (k : Nat) (s t : State), s.Inv → step s = .next t → t.running → t.cfg.lenWidth = some k →
    t.rd < 2 ^ k ∧ t.vs < 2 ^ k ∧ t.fe < 2 ^ k)

/-- R261, R115: nothing of an earlier frame is left in the core once START has run. That its supplied words are gone too
(`input`), and that `coreView` holds a wire, are the model's choices (log entries 4 and 5). -/
def Obligations.StartForgetsEarlierFrames : Prop :=
  ∀ (v : Nat) (s₁ s₂ : State), s₁.cfg = s₂.cfg → s₁.phase.presentable = true → s₂.phase.presentable = true →
    lengthFits s₁.cfg v = true →
    ∃ t₁ t₂, exec (.start v) s₁ = .next t₁ ∧ exec (.start v) s₂ = .next t₂ ∧
      t₁.coreView = t₂.coreView ∧ t₁.input = t₂.input

/-! ### The Frame Parser's rows (spec/40_frame_parser.md) -/

/-- R102: a header word is copied, and a complete header leads to MODHDR. The word is the one given; for one that is not
`InWord(rd)` it is the model's choice (log entry 22). -/
def Obligations.HeaderWordsAreCopied : Prop :=
  (∀ (w : Word64) (s : State), s.phase = .hdr → s.rd < s.cfg.headerSize →
    exec (.hdr w) s = .next { s with out := s.out ++ [w], rd := s.rd + 1 }) ∧
  (∀ s : State, s.undisturbed → s.phase = .hdr → s.rd = s.cfg.headerSize → step s = .next { s with phase := .modhdr })

/-- R103: the module region ends at the footer start. -/
def Obligations.ModuleRegionEnds : Prop :=
  ∀ s : State, s.phase = .modhdr → s.rd = s.fe → exec .modend s = .next { s with phase := .ftr }

/-- R105: a module-header word is copied and opens a module with an empty queue. The word is the one given; for one that is
not `InWord(rd)` it is the model's choice (log entry 22). -/
def Obligations.ModuleHeaderIsCopied : Prop :=
  ∀ (w : Word64) (s : State), s.phase = .modhdr → s.rd < s.fe →
    exec (.modhdr w) s = .next { s with out := s.out ++ [w], rd := s.rd + 1, q := [], phase := .strip }

/-- R106 and R107 where the queue has room: the nonzero halves are queued, upper first, nothing is emitted, and a LAST
line enters FLUSH with the streaming registers clear. The idled wire `unrolled` is the model's own (log entry 5), and so is
the effect of a line that is not `InWord(rd)` (log entry 22). -/
def Obligations.StripLineQueuesItsHalves : Prop :=
  ∀ (hi lo : ClusterWord) (s : State), s.phase = .strip → s.rd < s.fe →
    (∀ n ∈ s.cfg.queueCapacity, s.q.length + ([hi, lo].filter (· ≠ 0#32)).length ≤ n) →
    let q' := s.q ++ [hi, lo].filter (· ≠ 0#32)
    exec (.lineCont hi lo) s = .next { s with rd := s.rd + 1, q := q' } ∧
    ∀ i ∈ [Instr.lineLastHi hi lo, .lineLastLo hi lo, .lineLastBoth hi lo],
      exec i s = .next
        { s with
          rd := s.rd + 1, q := q', phase := .flush, held := none, prev := none, ovf := false, mbuf := []
          unrolled := Unrolled.idle }

/-- R233: a push into a full queue stops the frame: the half is not pushed, the lower half is not looked at after an
overflow on the upper one, nothing is emitted, and the line counts as read. That FAULT keeps the words already queued is
the model's reading of R233, R236 and EX-2 against a line of R32 (log entry 9); the effect of a line that is not `InWord(rd)`
is its choice (log entry 22). -/
def Obligations.FullQueueStopsTheFrame : Prop :=
  ∀ (hi lo : ClusterWord) (s : State) (n : Nat), s.phase = .strip → s.rd < s.fe → s.cfg.queueCapacity = some n →
    ∀ i ∈ [Instr.lineCont hi lo, .lineLastHi hi lo, .lineLastLo hi lo, .lineLastBoth hi lo],
      (hi ≠ 0#32 → s.q.length = n →
        exec i s = .next { s with rd := s.rd + 1, status := .queueOverflow, phase := .fault }) ∧
      (hi = 0#32 → lo ≠ 0#32 → s.q.length = n →
        exec i s = .next { s with rd := s.rd + 1, status := .queueOverflow, phase := .fault }) ∧
      (hi ≠ 0#32 → lo ≠ 0#32 → s.q.length + 1 = n →
        exec i s = .next
          { s with rd := s.rd + 1, q := s.q ++ [hi], status := .queueOverflow, phase := .fault })

/-- R108: a module that reaches the footer start ends there, with FLUSH entered as after a LAST line. The idled wire
`unrolled` is the model's own (log entry 5). -/
def Obligations.ModuleIsCutAtTheFooter : Prop :=
  ∀ s : State, s.phase = .strip → s.rd = s.fe →
    exec .modcut s = .next
      { s with phase := .flush, held := none, prev := none, ovf := false, mbuf := [], unrolled := Unrolled.idle }

/-- R110: a footer word is copied. The word is the one given; for one that is not `InWord(rd)` it is the model's choice (log
entry 22). -/
def Obligations.FooterWordsAreCopied : Prop :=
  ∀ (w : Word64) (s : State), s.phase = .ftr → s.rd < s.vs →
    exec (.ftr w) s = .next { s with out := s.out ++ [w], rd := s.rd + 1 }

/-- R111: the frame completes with status OK. -/
def Obligations.FrameCompletes : Prop :=
  ∀ s : State, s.phase = .ftr → s.rd = s.vs → exec .frameEnd s = .next { s with status := .ok, phase := .done }

/-- A row whose transition's phase or guard does not hold is refused by name: it never has part of its effect. UNROLL and
CW.NOHIT have no guard. The refusal is the model's choice (log entry 11). -/
def Obligations.DisabledRowsAreRefused : Prop :=
  ∀ (s : State) (w : Word64) (hi lo : ClusterWord) (f : BitVec 1) (p : Position) (pid : PassthroughId)
    (h : DecodedHit) (last : Bool) (a b : Record),
    (¬ (s.phase = .hdr ∧ s.rd < s.cfg.headerSize) → exec (.hdr w) s = .refused .notEnabled) ∧
    (¬ (s.phase = .modhdr ∧ s.rd < s.fe) → exec (.modhdr w) s = .refused .notEnabled) ∧
    (¬ (s.phase = .modhdr ∧ s.rd = s.fe) → exec .modend s = .refused .notEnabled) ∧
    (¬ (s.phase = .strip ∧ s.rd < s.fe) →
      ∀ i ∈ [Instr.lineCont hi lo, .lineLastHi hi lo, .lineLastLo hi lo, .lineLastBoth hi lo],
        exec i s = .refused .notEnabled) ∧
    (¬ (s.phase = .strip ∧ s.rd = s.fe) → exec .modcut s = .refused .notEnabled) ∧
    (s.phase ≠ .flush → exec .flush s = .refused .notEnabled) ∧
    (¬ (s.phase = .ftr ∧ s.rd < s.vs) → exec (.ftr w) s = .refused .notEnabled) ∧
    (¬ (s.phase = .ftr ∧ s.rd = s.vs) → exec .frameEnd s = .refused .notEnabled) ∧
    (¬ (s.phase = .flush ∧ s.q ≠ []) →
      ∀ i ∈ [Instr.cwS0 f p pid, .cwS1 f p pid, .cwS2 f p pid, .cwS3 f p pid, .cwS4 f p pid, .cwS5 f p pid,
             .cwS6 f p pid, .cwS7 f p pid], exec i s = .refused .notEnabled) ∧
    (s.phase ≠ .flush → exec (.encodeHit h last) s = .refused .notEnabled) ∧
    (¬ (s.phase = .flush ∧ s.held = some a) → exec (.outPair a b) s = .refused .notEnabled) ∧
    (¬ (s.phase = .flush ∧ s.held = none ∧ a.getLsbD 31 = true) → exec (.outOdd a) s = .refused .notEnabled) ∧
    (¬ (s.phase = .flush ∧ s.q = [] ∧ s.cfg.overlapCheck = .on ∧ s.ovf = true) →
      exec .outSentinel s = .refused .notEnabled)

/-! ### The Cluster Decoder (spec/41_cluster_decoder.md) -/

/-- R131: a no-hit half is not pushed, decoded or emitted. The last clause is the line's: a strip line with a zero half
queues the other half alone, and one with two zero halves queues nothing. The second is the model's choice (log entry 8): a
zero ClusterWord at a queue's head, which no run has, is dropped undecoded. So is, in the third, the effect of a line that is
not `InWord(rd)` (log entry 22). -/
def Obligations.NoHitIsDropped : Prop :=
  (∀ s : State, s.phase ≠ .flush ∨ s.q.head? ≠ some 0#32 → exec .cwNohit s = .next s) ∧
  (∀ (s : State) (cs : List ClusterWord), s.phase = .flush → s.q = 0#32 :: cs →
    exec .cwNohit s = .next { s with q := cs }) ∧
  (∀ (c : ClusterWord) (s : State), s.phase = .strip → s.rd < s.fe → s.cfg.queueCapacity = none → c ≠ 0#32 →
    exec (.lineCont 0#32 0#32) s = .next { s with rd := s.rd + 1 } ∧
    exec (.lineCont c 0#32) s = .next { s with rd := s.rd + 1, q := s.q ++ [c] } ∧
    exec (.lineCont 0#32 c) s = .next { s with rd := s.rd + 1, q := s.q ++ [c] })

/-- R133: the Cluster Shape Table. -/
def Obligations.ShapeTableEntries : Prop :=
  shapeEntry 0#3 = ⟨1#3, none⟩ ∧ shapeEntry 1#3 = ⟨1#3, some (3#12, 1#3)⟩ ∧
  shapeEntry 2#3 = ⟨1#3, some (2#12, 1#3)⟩ ∧ shapeEntry 3#3 = ⟨1#3, some (2#12, 2#3)⟩ ∧
  shapeEntry 4#3 = ⟨2#3, none⟩ ∧ shapeEntry 5#3 = ⟨2#3, some (3#12, 1#3)⟩ ∧
  shapeEntry 6#3 = ⟨3#3, none⟩ ∧ shapeEntry 7#3 = ⟨4#3, none⟩

/-- R133, R134, R135, R132: the hits of every shape code, the secondary's position modulo 4096; the half flag is not
read. The hit of the zero ClusterWord, which R134 leaves out, is the model's choice (log entry 8). -/
def Obligations.DecodeOneExpandsByShape : Prop :=
  ∀ (f : BitVec 1) (p : Position) (pid : PassthroughId),
    let at' (n : Nat) : Position := BitVec.ofNat 12 ((p.toNat + n) % 4096)
    decodeOne (clusterWord f p 0#3 pid) = [⟨p, 1#3, pid⟩] ∧
    decodeOne (clusterWord f p 1#3 pid) = [⟨p, 1#3, pid⟩, ⟨at' 3, 1#3, pid⟩] ∧
    decodeOne (clusterWord f p 2#3 pid) = [⟨p, 1#3, pid⟩, ⟨at' 2, 1#3, pid⟩] ∧
    decodeOne (clusterWord f p 3#3 pid) = [⟨p, 1#3, pid⟩, ⟨at' 2, 2#3, pid⟩] ∧
    decodeOne (clusterWord f p 4#3 pid) = [⟨p, 2#3, pid⟩] ∧
    decodeOne (clusterWord f p 5#3 pid) = [⟨p, 2#3, pid⟩, ⟨at' 3, 1#3, pid⟩] ∧
    decodeOne (clusterWord f p 6#3 pid) = [⟨p, 3#3, pid⟩] ∧
    decodeOne (clusterWord f p 7#3 pid) = [⟨p, 4#3, pid⟩]

/-- R136 to R143 and T7 of R113: a queued ClusterWord's row pops the queue's head and takes its hits, each tracked,
encoded and packed in turn, the last of them the module's final one if the queue is now empty. A row whose operands are not
the queue's head takes its own hits all the same, which is the model's choice (log entry 22); so is the wire that encoding
idles (log entry 5). -/
def Obligations.ClusterRowsTakeTheirHits : Prop :=
  ∀ (f : BitVec 1) (p : Position) (pid : PassthroughId) (s : State) (c : ClusterWord) (cs : List ClusterWord),
    s.phase = .flush → s.q = c :: cs →
    let one (h : DecodedHit) : State :=
      (({ s with q := cs }.overlapTrack h).encodeAndPack h cs.isEmpty)
    let two (h h' : DecodedHit) : State :=
      (((({ s with q := cs }.overlapTrack h).encodeAndPack h false).overlapTrack h').encodeAndPack h' cs.isEmpty)
    exec (.cwS0 f p pid) s = .next (one ⟨p, 1#3, pid⟩) ∧
    exec (.cwS1 f p pid) s = .next (two ⟨p, 1#3, pid⟩ ⟨p + 3#12, 1#3, pid⟩) ∧
    exec (.cwS2 f p pid) s = .next (two ⟨p, 1#3, pid⟩ ⟨p + 2#12, 1#3, pid⟩) ∧
    exec (.cwS3 f p pid) s = .next (two ⟨p, 1#3, pid⟩ ⟨p + 2#12, 2#3, pid⟩) ∧
    exec (.cwS4 f p pid) s = .next (one ⟨p, 2#3, pid⟩) ∧
    exec (.cwS5 f p pid) s = .next (two ⟨p, 2#3, pid⟩ ⟨p + 3#12, 1#3, pid⟩) ∧
    exec (.cwS6 f p pid) s = .next (one ⟨p, 3#3, pid⟩) ∧
    exec (.cwS7 f p pid) s = .next (one ⟨p, 4#3, pid⟩)

/-- The frame of the eight queued rows: outside the queue, the streaming registers, the packed words and the model's own
wire everything is unchanged; the words already packed stay in place, in `out` with the check off and in `mbuf` with it on,
and the other of the two is unchanged. Operands that are not the queue's head are covered too, as the model treats them (log
entry 22); the wire is log entry 5. -/
def Obligations.ClusterRowFrame : Prop :=
  ∀ (f : BitVec 1) (p : Position) (pid : PassthroughId) (s t : State),
    ∀ i ∈ [Instr.cwS0 f p pid, .cwS1 f p pid, .cwS2 f p pid, .cwS3 f p pid, .cwS4 f p pid, .cwS5 f p pid,
           .cwS6 f p pid, .cwS7 f p pid],
    exec i s = .next t →
      t.phase = s.phase ∧ t.rd = s.rd ∧ t.vs = s.vs ∧ t.fe = s.fe ∧ t.q = s.q.tail ∧ t.status = s.status ∧
      t.cfg = s.cfg ∧ t.input = s.input ∧ t.taking = s.taking ∧ t.schedule = s.schedule ∧
      (s.cfg.overlapCheck = .off → (∃ ws, t.out = s.out ++ ws) ∧ t.mbuf = s.mbuf ∧ t.ovf = s.ovf) ∧
      (s.cfg.overlapCheck = .on → (∃ ws, t.mbuf = s.mbuf ++ ws) ∧ t.out = s.out)

/-- R146: every hit of a ClusterWord and every record made from it carries the ClusterWord's id, and the two hits of one
ClusterWord do not overlap unless the secondary's position wraps. The hit of the zero ClusterWord, which R134 leaves out, is
the model's choice (log entry 8). -/
def Obligations.IdsPassThroughAndHitsStayApart : Prop :=
  (∀ (c : ClusterWord), ∀ h ∈ decodeOne c,
    h.passthroughId = c.extractLsb' 0 16 ∧ ∀ last, (encodeRecord h last).extractLsb' 0 16 = c.extractLsb' 0 16) ∧
  (∀ (c : ClusterWord) (h h' : DecodedHit), decodeOne c = [h, h'] → h.position.toNat < h'.position.toNat →
    h.position.toNat + h.size.toNat ≤ h'.position.toNat)

/-! ### The Address Unroller (spec/42_address_unroller.md) -/

/-- R160: UNROLL's result for every position. The wire that holds it is the model's own (log entry 5). -/
def Obligations.UnrollComputesIndexAndRow : Prop :=
  ∀ (p : Position) (s : State), ∃ u : Unrolled,
    exec (.unroll p) s = .next { s with unrolled := u } ∧
    let chip := p.toNat / 256
    let strip := p.toNat % 256
    (128 ≤ strip → u.row = 1#1 ∧ u.stripIndex.toNat = (strip - 128) + chip * 128) ∧
    (strip < 128 → u.row = 0#1 ∧ u.stripIndex.toNat = strip + chip * 128)

/-- R161 and R162: the unroller is a rewiring of the position's bits, and no strip index reaches 2048. -/
def Obligations.UnrollIsARewiring : Prop :=
  ∀ p : Position,
    (unroll p).row = p.extractLsb' 7 1 ∧
    (unroll p).stripIndex = 0#1 ++ p.extractLsb' 8 4 ++ p.extractLsb' 0 7 ∧
    (unroll p).stripIndex.toNat ≤ 2047 ∧ (unroll p).stripIndex.getLsbD 11 = false

/-- R163: `Unroll` is a bijection from the positions onto the strip indices 0 to 2047 with both rows, with the inverse
that the rule gives. -/
def Obligations.UnrollIsABijection : Prop :=
  (∀ p p' : Position, unroll p = unroll p' → p = p') ∧
  (∀ p : Position, rollBack (unroll p).stripIndex (unroll p).row = p) ∧
  (∀ (si : BitVec 12) (row : BitVec 1), si.toNat < 2048 → unroll (rollBack si row) = ⟨si, row⟩)

/-! ### The Encoder/Packer (spec/43_encoder_packer.md) -/

/-- R182, R76: the fields of an encoded record; size 4 becomes 0. -/
def Obligations.RecordFields : Prop :=
  ∀ (h : DecodedHit) (last : Bool),
    let r := encodeRecord h last
    r.getLsbD 31 = last ∧ r.extractLsb' 30 1 = (unroll h.position).row ∧
    (r.extractLsb' 28 2).toNat = h.size.toNat % 4 ∧ r.extractLsb' 16 12 = (unroll h.position).stripIndex ∧
    r.extractLsb' 0 16 = h.passthroughId ∧ r.getLsbD 27 = false

/-- R183 with R188: REC encodes a hit and hands the record to the Packer, which completes a pair with the held record,
flushes a final record alone, or holds the record. That REC does both, run by itself, is the model's choice (log entry
6), and so are the wire `unrolled`, idle afterwards (log entry 5), and a hit and last bit that are not T7's (log entry 22). -/
def Obligations.EncodedHitGoesToThePacker : Prop :=
  ∀ (h : DecodedHit) (last : Bool) (s : State), s.phase = .flush →
    let r := encodeRecord h last
    let on := s.cfg.overlapCheck = .on
    (∀ a, s.held = some a →
      exec (.encodeHit h last) s = .next
        { s with
          held := none, unrolled := Unrolled.idle
          out := if on then s.out else s.out ++ [joinHalves a r]
          mbuf := if on then s.mbuf ++ [joinHalves a r] else s.mbuf }) ∧
    (s.held = none → last = true →
      exec (.encodeHit h last) s = .next
        { s with
          unrolled := Unrolled.idle
          out := if on then s.out else s.out ++ [joinHalves r 0#32]
          mbuf := if on then s.mbuf ++ [joinHalves r 0#32] else s.mbuf }) ∧
    (s.held = none → last = false →
      exec (.encodeHit h last) s = .next { s with held := some r, unrolled := Unrolled.idle })

/-- R184: a pair word leaves the Packer, even where it is zero; it goes to `out` with the check off and to `mbuf` with it
on (R188, R216). OUT.PAIR run by itself is the model's choice (log entry 6), and so is that it takes any second record as
given (log entry 22). -/
def Obligations.PairWordIsPacked : Prop :=
  ∀ (a b : Record) (s : State), s.phase = .flush → s.held = some a →
    exec (.outPair a b) s = .next
      { s with
        held := none
        out := if s.cfg.overlapCheck = .on then s.out else s.out ++ [joinHalves a b]
        mbuf := if s.cfg.overlapCheck = .on then s.mbuf ++ [joinHalves a b] else s.mbuf }

/-- R185: a final record with none held leaves alone; its word is never zero; it goes to `out` with the check off and to
`mbuf` with it on (R188, R216). OUT.ODD run by itself is the model's choice (log entry 6), and so is that it takes any record
with its last bit set as given (log entry 22). -/
def Obligations.OddRecordIsFlushedAlone : Prop :=
  ∀ (r : Record) (s : State), s.phase = .flush → s.held = none → r.getLsbD 31 = true →
    joinHalves r 0#32 ≠ 0#64 ∧
    exec (.outOdd r) s = .next
      { s with
        out := if s.cfg.overlapCheck = .on then s.out else s.out ++ [joinHalves r 0#32]
        mbuf := if s.cfg.overlapCheck = .on then s.mbuf ++ [joinHalves r 0#32] else s.mbuf }

/-- R181: the k-th record of a module is its k-th hit's, with `last` on the final one alone. -/
def Obligations.OnlyTheFinalRecordIsLast : Prop :=
  ∀ (hs : List DecodedHit) (k : Nat),
    (moduleRecords hs)[k]? = hs[k]?.map (fun h => encodeRecord h (decide (k + 1 = hs.length)))

/-- R186: a module's plain output has `ceil(n / 2)` words; word j holds the records of hits 2j and 2j+1, or the final hit's
alone, and the module's final record alone has `last` set; with the check off this is the module's whole output. -/
def Obligations.PlainOutputPacksInPairs : Prop :=
  (∀ q : List ClusterWord, moduleOutput .off q = plainOutput (decodeQueue q)) ∧
  ∀ hs : List DecodedHit,
    (plainOutput hs).length = (hs.length + 1) / 2 ∧
    (∀ j g h, hs[2 * j]? = some g → hs[2 * j + 1]? = some h →
      (plainOutput hs)[j]? =
        some (joinHalves (encodeRecord g false) (encodeRecord h (decide (2 * j + 2 = hs.length))))) ∧
    (∀ j g, hs[2 * j]? = some g → 2 * j + 1 = hs.length →
      (plainOutput hs)[j]? = some (joinHalves (encodeRecord g true) 0#32))

/-- R189: unpacking a module's packed output gives its records back, an odd final one included. -/
def Obligations.UnpackingRoundTrips : Prop :=
  ∀ hs : List DecodedHit, hs ≠ [] → unpack (plainOutput hs) = moduleRecords hs

/-- R83: in every packed word bit 59 is 0 and the word is not the sentinel; one with bit 63 clear is a pair word and has
bit 27 clear; one with bit 63 set is the module's final word and its lower half is 0. -/
def Obligations.PackedWordProperties : Prop :=
  ∀ (hs : List DecodedHit) (j : Nat) (w : Word64), (plainOutput hs)[j]? = some w →
    w.getLsbD 59 = false ∧ w.getLsbD 27 = false ∧ w ≠ sentinel ∧
    (w.getLsbD 63 = true ↔ j * 2 + 1 = hs.length) ∧ (w.getLsbD 63 = true → lowerHalf w = 0#32)

/-! ### The adjacency check (spec/44_overlap_check.md) -/

/-- R212 with R210: a module overlaps exactly if some consecutive pair of its hits does, in exact arithmetic. -/
def Obligations.OverlapComparesNeighbours : Prop :=
  ∀ hs : List DecodedHit,
    overlaps hs = true ↔
      ∃ (k : Nat) (g h : DecodedHit), hs[k]? = some g ∧ hs[k + 1]? = some h ∧
        g.position.toNat + g.size.toNat > h.position.toNat

/-- R213: at the end of a module in which an overlap was seen, the sentinel alone replaces its packed words, the module
ends, and the status is unchanged; OUT.SENTINEL and FLUSH agree there. R213 gives the module's output and T8 of R113 the rest;
that the row OUT.SENTINEL is the whole of T8, and so equals FLUSH, is the model's choice (log entry 13), and so is the idled
wire `unrolled` (log entry 5). -/
def Obligations.SentinelReplacesTheModule : Prop :=
  ∀ s : State, s.phase = .flush → s.q = [] → s.cfg.overlapCheck = .on → s.ovf = true →
    let t : State :=
      { s with
        out := s.out ++ [0xFFFFFFFFFFFFFFFF#64], phase := .modhdr, held := none, prev := none, ovf := false
        mbuf := [], unrolled := Unrolled.idle }
    exec .outSentinel s = .next t ∧ exec .flush s = .next t

/-- R216 with T8 of R113: with the check off or no overlap seen, the end of a module emits what was held back and nothing
else. FLUSH on an empty queue is T8 alone by the model's choice (log entry 13), and the idled wire `unrolled` is its own (log
entry 5). -/
def Obligations.DrainedModuleReleasesItsWords : Prop :=
  ∀ s : State, s.phase = .flush → s.q = [] → (s.cfg.overlapCheck = .on → s.ovf = false) →
    exec .flush s = .next
      { s with
        out := if s.cfg.overlapCheck = .on then s.out ++ s.mbuf else s.out
        phase := .modhdr, held := none, prev := none, ovf := false, mbuf := [], unrolled := Unrolled.idle }

/-- R109: from a FLUSH entry the streaming machine emits exactly `ModuleOutput(q)` of R214 and goes to MODHDR with the
queue and the streaming registers clear. The idled wire `unrolled` is the model's own (log entry 5). -/
def Obligations.FlushEmitsModuleOutput : Prop :=
  ∀ s : State, s.atFlushEntry → (∀ c ∈ s.q, c ≠ 0#32) →
    exec .flush s = .next
      { s with
        out := s.out ++ moduleOutput s.cfg.overlapCheck s.q
        q := [], phase := .modhdr, unrolled := Unrolled.idle }

/-- T7 and T8 of R113: FLUSH on a queue is the row of its head and then FLUSH on the rest. That FLUSH runs to its end from
a module already drained in part is the model's choice (log entry 13), and so is what happens to a zero head, which no run
has (log entry 8). -/
def Obligations.FlushRunsTheQueueInTurn : Prop :=
  ∀ (s : State) (c : ClusterWord) (cs : List ClusterWord), s.phase = .flush → s.q = c :: cs →
    ∃ i t, decode .half (c.setWidth 64) = .ok i ∧ exec i s = .next t ∧ t.q = cs ∧ exec .flush s = exec .flush t

/-- R232: with the check on, a module whose hits overlap has exactly the sentinel for its output, the status is unchanged
and the parser goes on with the next module. -/
def Obligations.OverlappingModuleIsRecoverable : Prop :=
  ∀ s : State, s.atFlushEntry → (∀ c ∈ s.q, c ≠ 0#32) → s.cfg.overlapCheck = .on →
    overlaps (decodeQueue s.q) = true →
    ∃ t, exec .flush s = .next t ∧ t.out = s.out ++ [0xFFFFFFFFFFFFFFFF#64] ∧ t.status = s.status ∧
      t.phase = .modhdr ∧ t.rd = s.rd

/-! ### The step machine (spec/40_frame_parser.md R113, 70_reset_and_hazards.md) -/

/-- A step runs the decoded instruction: where the next move's slot and bits decode to `i`, the step is `exec i` on the
state with the host's schedule moved on, unless the host takes no words and the instruction emits. That it then waits as a
whole is the model's reading of R263 (log entry 10); the schedule is its own (log entry 1). -/
def Obligations.StepRunsTheDecodedInstruction : Prop :=
  ∀ (s : State) (slot : Slot) (w : Word64) (i : Instr), nextMove s = .run slot w → decode slot w = .ok i →
    (s.taking = true → step s = exec i s.clock) ∧
    (s.taking = false → ∀ t, exec i s.clock = .next t →
      (t.out.length ≤ s.out.length → step s = .next t) ∧
      (s.out.length < t.out.length → step s = .next s.clock))

/-- R113: the transitions T0 to T10. Each phase and guard selects its instruction, with the word that the read index or
the queue's head gives. The host's schedule is the model's own (log entry 1), and so is the choice of the row FLUSH for T8
(log entry 13). -/
def Obligations.StepFiresTheEnabledTransition : Prop :=
  (∀ (s : State) (v : Nat) (es : List HostEvent), s.schedule = ⟨0, .present v⟩ :: es → s.taking = true →
    step s = exec (.start v) { s with schedule := es }) ∧
  (∀ (s : State) (w : Word64), s.undisturbed → s.input[s.rd]? = some w →
    (s.phase = .hdr → s.rd < s.cfg.headerSize → step s = exec (.hdr w) s) ∧
    (s.phase = .modhdr → s.rd < s.fe → step s = exec (.modhdr w) s) ∧
    (s.phase = .strip → s.rd < s.fe → ∃ i, decode .stripLine w = .ok i ∧ step s = exec i s) ∧
    (s.phase = .ftr → s.rd < s.vs → step s = exec (.ftr w) s)) ∧
  (∀ s : State, s.undisturbed →
    (s.phase = .hdr → s.rd = s.cfg.headerSize → step s = .next { s with phase := .modhdr }) ∧
    (s.phase = .modhdr → s.rd = s.fe → step s = exec .modend s) ∧
    (s.phase = .strip → s.rd = s.fe → step s = exec .modcut s) ∧
    (∀ c cs, s.phase = .flush → s.q = c :: cs → ∃ i, decode .half (c.setWidth 64) = .ok i ∧ step s = exec i s) ∧
    (s.phase = .flush → s.q = [] → step s = exec .flush s) ∧
    (s.phase = .ftr → s.rd = s.vs → step s = exec .frameEnd s))

/-- R261 and R263: with no act of the host due, the core waits, unchanged, for a frame in a terminal phase and for the next
input word in a phase that needs one. That a waiting step answers the same state is the model's reading (log entry 2), and
the schedule is its own (log entry 1). -/
def Obligations.CoreWaitsForTheHost : Prop :=
  (∀ s : State, s.schedule = [] → s.phase ∈ [Phase.idle, .done, .errLen, .fault] → step s = .next s) ∧
  (∀ s : State, s.schedule = [] → s.input[s.rd]? = none →
    (s.phase = .hdr → s.rd < s.cfg.headerSize → step s = .next s) ∧
    (s.phase = .modhdr → s.rd < s.fe → step s = .next s) ∧
    (s.phase = .strip → s.rd < s.fe → step s = .next s) ∧
    (s.phase = .ftr → s.rd < s.vs → step s = .next s))

/-- R263: while the host does not take words, no step of a running frame adds one to the output and none is lost. A
transition that would change the output does not fire: the step moves only the host's schedule on, and no element of the
core and no supplied word changes. That the transition waits as a whole, its word not yet emitted, is the model's reading
(log entry 10); the schedule is its own (log entry 1). -/
def Obligations.NoWordIsDroppedWhileTheHostStalls : Prop :=
  (∀ s t : State, s.taking = false → step s = .next t → s.running → t.out = s.out ∨ nextMove s = .host .reset) ∧
  (∀ (s u : State) (slot : Slot) (w : Word64) (i : Instr), s.taking = false → s.running →
    nextMove s = .run slot w → decode slot w = .ok i → exec i s.clock = .next u → u.out ≠ s.out →
    step s = .next s.clock ∧ s.clock.coreView = s.coreView ∧ s.clock.input = s.input)

/-- R262 and R263, the acts of the host. A change of the configuration while a frame runs is refused; outside a frame, or
with the configuration unchanged, it takes effect. A supplied word is appended to the frame's input words, and the host
starts or stops taking emitted words. Beside that only the schedule moves on. The list of supplied words and the readiness
are the model's own elements (log entries 1, 4 and 10), and LEN_WIDTH counts as configuration (log entry 17). -/
def Obligations.ConfigurationIsHeldDuringAFrame : Prop :=
  (∀ (s : State) (cfg : Cfg) (es : List HostEvent), s.schedule = ⟨0, .give (.configure cfg)⟩ :: es →
    (s.phase.presentable = false → cfg ≠ s.cfg → step s = .refused .configChangedInFrame) ∧
    (s.phase.presentable = true ∨ cfg = s.cfg → step s = .next { s with cfg := cfg, schedule := es })) ∧
  (∀ (s : State) (w : Word64) (es : List HostEvent), s.schedule = ⟨0, .give (.supply w)⟩ :: es →
    step s = .next { s with input := s.input ++ [w], schedule := es }) ∧
  (∀ (s : State) (b : Bool) (es : List HostEvent), s.schedule = ⟨0, .give (.takeOutput b)⟩ :: es →
    step s = .next { s with taking := b, schedule := es })

/-- R22 and R23: the read index stays or moves on by one, and `vs` and `fe` stay, in every step but START and reset. -/
def Obligations.ReadIndexNeverSkips : Prop :=
  ∀ s t : State, step s = .next t → (∀ v, nextMove s ≠ .run (.frameStart v) 0#64) → nextMove s ≠ .host .reset →
    (t.rd = s.rd ∨ t.rd = s.rd + 1) ∧ t.vs = s.vs ∧ t.fe = s.fe

/-- R25: the output stream only grows, in every step but START and reset. -/
def Obligations.OutputOnlyGrows : Prop :=
  ∀ s t : State, step s = .next t → (∀ v, nextMove s ≠ .run (.frameStart v) 0#64) → nextMove s ≠ .host .reset →
    ∃ ws, t.out = s.out ++ ws

/-- The invariant holds at reset, and so does what a step keeps of an admitted frame. Its clause on the wire `unrolled` is
the model's own (log entry 5). -/
def Obligations.InvariantHoldsAtReset : Prop := State.reset.Inv ∧ State.reset.admittedFrameOk

/-- Every step keeps the invariant of 10_state.md R32 (`State.Inv`, with FAULT's queue excepted by log entry 9). The second
clause carries R32's frame map and empty queue from START on into DONE and FAULT, for as long as the configuration is the
frame's own (`State.admittedFrameOk`, log entry 17). The clause on the wire `unrolled` is the model's own (log entry 5). -/
def Obligations.StepKeepsTheInvariant : Prop :=
  (∀ s t : State, s.Inv → step s = .next t → t.Inv) ∧
  (∀ s t : State, s.Inv → s.admittedFrameOk → step s = .next t → t.cfg = s.cfg → t.admittedFrameOk)

/-- From a state that meets the invariant the machine never stops on a fault, and it stops on a refusal only where the host
breaks one of its duties: a frame presented during a frame, one that does not fit `LEN_WIDTH`, or a configuration changed
during a frame. The order of the first two and the width among the configuration are the model's readings (log entries 14
and 17), and the fault ruled out is its own (log entry 12). -/
def Obligations.OnlyTheHostCanStopTheCore : Prop :=
  ∀ s : State, s.Inv →
    (∀ r, step s ≠ .fault r) ∧
    (∀ r, step s = .refused r →
      (∃ v, nextMove s = .run (.frameStart v) 0#64 ∧ (r = .frameInProgress ∨ r = .lengthExceedsCounter)) ∨
      (∃ cfg, nextMove s = .host (.configure cfg) ∧ r = .configChangedInFrame))

/-! ### Whole frames (spec/40_frame_parser.md R100, 20_memory.md R62) -/

/-- R100 with R113 and R58: whatever the times at which the host configures the core, presents a frame and supplies its
words, the step machine reaches a terminal phase with the status and the output words of `Frame`. The schedule and the list of
supplied words are the model's own elements (log entries 1 and 4). -/
def Obligations.StepMachineComputesFrame : Prop :=
  ∀ (cfg : Cfg) (ws : List Word64) (s : State) (d₁ d₂ : Nat) (feed : List HostEvent),
    s.phase.presentable = true → s.taking = true → lengthFits cfg ws.length = true →
    s.schedule = ⟨d₁, .give (.configure cfg)⟩ :: ⟨d₂, .present ws.length⟩ :: feed →
    feed.map (·.act) = ws.map (fun w => .give (.supply w)) →
    ∃ (k : Nat) (t : State), runsTo k s t ∧ t.phase ∈ [Phase.done, .errLen, .fault] ∧
      t.status = (frameResult cfg ws).status ∧ t.out = (frameResult cfg ws).out

/-- R62: the length of the output of an admitted frame that completes. -/
def Obligations.OutputLengthIsExact : Prop :=
  ∀ (cfg : Cfg) (ws : List Word64), (frameResult cfg ws).status = .ok →
    let region := (ws.take (ws.length - cfg.footerSize)).drop cfg.headerSize
    let modules := regionModules none region
    (frameResult cfg ws).out.length =
      cfg.headerSize + cfg.footerSize + modules.length +
        (modules.map (fun m => moduleWordCount cfg.overlapCheck m.2)).sum

/-- R112: the output is the header, then each module's header word and its packed words in order, then the footer. -/
def Obligations.OutputOrderIsTheContract : Prop :=
  ∀ (cfg : Cfg) (ws : List Word64), (frameResult cfg ws).status = .ok →
    let fe := ws.length - cfg.footerSize
    (frameResult cfg ws).out =
      ws.take cfg.headerSize ++
      (regionModules none ((ws.take fe).drop cfg.headerSize)).flatMap
        (fun m => m.1 :: moduleOutput cfg.overlapCheck m.2) ++
      ws.drop fe

/-- R233 and R234: with an unbounded queue every frame completes with status OK or is refused for its length, and is
refused exactly if it is too short. -/
def Obligations.UnboundedQueueNeverOverflows : Prop :=
  ∀ (cfg : Cfg) (ws : List Word64), cfg.queueCapacity = none →
    (frameResult cfg ws).status =
      if ws.length < cfg.headerSize + cfg.footerSize then .invalidLength else .ok

/-- R236: after QueueOverflow the output is the header, the complete output of the modules before the overflowing one, and
that module's header word, and nothing else. The module that this word opens is the one that overflows. -/
def Obligations.OverflowedOutputIsPrecise : Prop :=
  ∀ (cfg : Cfg) (ws : List Word64), (frameResult cfg ws).status = .queueOverflow →
    ∃ (before : List Word64) (header : Word64) (rest : List Word64),
      (ws.take (ws.length - cfg.footerSize)).drop cfg.headerSize = before ++ header :: rest ∧
      regionClosed false before = true ∧
      (moduleRegion cfg none before).status = .ok ∧
      moduleRegion cfg none (header :: rest) = { status := .queueOverflow, out := [header] } ∧
      (frameResult cfg ws).out =
        ws.take cfg.headerSize ++ (moduleRegion cfg none before).out ++ [header]

/-- R115: modules do not interact: closed modules put the same words in the output whatever follows them, and what follows
is processed as if it came first. -/
def Obligations.ModulesDoNotInteract : Prop :=
  ∀ (cfg : Cfg) (before after : List Word64),
    regionClosed false before = true → (moduleRegion cfg none before).status = .ok →
    moduleRegion cfg none (before ++ after) =
      { status := (moduleRegion cfg none after).status
        out := (moduleRegion cfg none before).out ++ (moduleRegion cfg none after).out }
end

