-- ==== Sys2Proof/Laws/Fields.lean ====
section
/-!
SUPPORT. The small lemmas of the bit fields: what each field of a word built from fields is.
-/

namespace Sys2Proof

/-! ### The bits of a word built from fields -/

theorem joinHalves_bit (hi lo : BitVec 32) (i : Nat) :
    (joinHalves hi lo).getLsbD i = if i < 32 then lo.getLsbD i else hi.getLsbD (i - 32) := by
  change BitVec.getLsbD (w := 32 + 32) (hi ++ lo) i = _
  rw [BitVec.getLsbD_append]

theorem clusterWord_bit (f : BitVec 1) (p : Position) (shape : BitVec 3) (pid : PassthroughId) (i : Nat) :
    (clusterWord f p shape pid).getLsbD i =
      if i < 16 then pid.getLsbD i
      else if i < 19 then shape.getLsbD (i - 16)
      else if i < 31 then p.getLsbD (i - 19) else f.getLsbD (i - 31) := by
  change BitVec.getLsbD (w := 1 + 12 + 3 + 16) (f ++ p ++ shape ++ pid) i = _
  simp only [BitVec.getLsbD_append]
  repeat' split
  all_goals first | rfl | omega

theorem recordWord_bit (last row : BitVec 1) (n : BitVec 2) (si : BitVec 12) (pid : PassthroughId) (i : Nat) :
    (recordWord last row n si pid).getLsbD i =
      if i < 16 then pid.getLsbD i
      else if i < 28 then si.getLsbD (i - 16)
      else if i < 30 then n.getLsbD (i - 28)
      else if i < 31 then row.getLsbD (i - 30) else last.getLsbD (i - 31) := by
  change BitVec.getLsbD (w := 1 + 1 + 2 + 12 + 16) (last ++ row ++ n ++ si ++ pid) i = _
  simp only [BitVec.getLsbD_append]
  repeat' split
  all_goals first | rfl | omega

/-! ### Halves -/

@[simp] theorem upperHalf_joinHalves (hi lo : BitVec 32) : upperHalf (joinHalves hi lo) = hi := by
  apply BitVec.eq_of_getLsbD_eq
  intro i h
  simp [upperHalf, joinHalves_bit, h]

@[simp] theorem lowerHalf_joinHalves (hi lo : BitVec 32) : lowerHalf (joinHalves hi lo) = lo := by
  apply BitVec.eq_of_getLsbD_eq
  intro i h
  simp [lowerHalf, joinHalves_bit, h]

@[simp] theorem joinHalves_upper_lower (w : Word64) : joinHalves (upperHalf w) (lowerHalf w) = w := by
  apply BitVec.eq_of_getLsbD_eq
  intro i h
  simp only [joinHalves_bit, upperHalf, lowerHalf, BitVec.getLsbD_extractLsb']
  split
  · simp_all
  · have h1 : i - 32 < 32 := by omega
    have h2 : 32 + (i - 32) = i := by omega
    simp [h1, h2]

theorem upperHalf_flag (w : Word64) : (upperHalf w).getLsbD 31 = w.getLsbD 63 := by
  simp [upperHalf]

theorem lowerHalf_flag (w : Word64) : (lowerHalf w).getLsbD 31 = w.getLsbD 31 := by
  simp [lowerHalf]

/-! ### ClusterWord fields -/

section ClusterWordFields

variable (f : BitVec 1) (p : Position) (shape : BitVec 3) (pid : PassthroughId)

@[simp] theorem clusterPosition_clusterWord : clusterPosition (clusterWord f p shape pid) = p := by
  apply BitVec.eq_of_getLsbD_eq
  intro i h
  have h1 : ¬ 19 + i < 16 := by omega
  have h2 : 19 + i < 31 := by omega
  simp [clusterPosition, clusterWord_bit, h, h1, h2]

@[simp] theorem clusterShape_clusterWord : clusterShape (clusterWord f p shape pid) = shape := by
  apply BitVec.eq_of_getLsbD_eq
  intro i h
  have h2 : 16 + i < 19 := by omega
  simp [clusterShape, clusterWord_bit, h, h2]

@[simp] theorem clusterId_clusterWord : clusterId (clusterWord f p shape pid) = pid := by
  apply BitVec.eq_of_getLsbD_eq
  intro i h
  simp [clusterId, clusterWord_bit, h]

@[simp] theorem clusterFlag_clusterWord : (clusterWord f p shape pid).extractLsb' 31 1 = f := by
  apply BitVec.eq_of_getLsbD_eq
  intro i h
  obtain rfl : i = 0 := by omega
  simp only [BitVec.getLsbD_extractLsb', clusterWord_bit]
  simp

end ClusterWordFields

theorem clusterWord_fields (c : ClusterWord) :
    clusterWord (c.extractLsb' 31 1) (clusterPosition c) (clusterShape c) (clusterId c) = c := by
  apply BitVec.eq_of_getLsbD_eq
  intro i h
  simp only [clusterWord_bit, clusterPosition, clusterShape, clusterId, BitVec.getLsbD_extractLsb']
  split
  · simp_all
  · split
    · have h1 : i - 16 < 3 := by omega
      have h2 : 16 + (i - 16) = i := by omega
      simp [h1, h2]
    · split
      · have h1 : i - 19 < 12 := by omega
        have h2 : 19 + (i - 19) = i := by omega
        simp [h1, h2]
      · obtain rfl : i = 31 := by omega
        simp

/-! ### Record fields -/

section RecordFields

variable (last row : BitVec 1) (n : BitVec 2) (si : BitVec 12) (pid : PassthroughId)

@[simp] theorem recordWord_id : (recordWord last row n si pid).extractLsb' 0 16 = pid := by
  apply BitVec.eq_of_getLsbD_eq
  intro i h
  simp [recordWord_bit, h]

@[simp] theorem recordWord_stripIndex : (recordWord last row n si pid).extractLsb' 16 12 = si := by
  apply BitVec.eq_of_getLsbD_eq
  intro i h
  have h2 : 16 + i < 28 := by omega
  simp [recordWord_bit, h, h2]

@[simp] theorem recordWord_nStrips : (recordWord last row n si pid).extractLsb' 28 2 = n := by
  apply BitVec.eq_of_getLsbD_eq
  intro i h
  have h1 : ¬ 28 + i < 16 := by omega
  have h2 : 28 + i < 30 := by omega
  simp [recordWord_bit, h, h1, h2]

@[simp] theorem recordWord_row : (recordWord last row n si pid).extractLsb' 30 1 = row := by
  apply BitVec.eq_of_getLsbD_eq
  intro i h
  obtain rfl : i = 0 := by omega
  simp only [BitVec.getLsbD_extractLsb', recordWord_bit]
  simp

theorem recordWord_last : (recordWord last row n si pid).getLsbD 31 = last.getLsbD 0 := by
  simp only [recordWord_bit]; rfl

theorem recordWord_bit27 : (recordWord last row n si pid).getLsbD 27 = si.getLsbD 11 := by
  simp only [recordWord_bit]; rfl

end RecordFields

theorem recordWord_fields (r : Record) :
    recordWord (r.extractLsb' 31 1) (r.extractLsb' 30 1) (r.extractLsb' 28 2) (r.extractLsb' 16 12)
      (r.extractLsb' 0 16) = r := by
  apply BitVec.eq_of_getLsbD_eq
  intro i h
  simp only [recordWord_bit, BitVec.getLsbD_extractLsb']
  split
  · simp_all
  · split
    · have h1 : i - 16 < 12 := by omega
      have h2 : 16 + (i - 16) = i := by omega
      simp [h1, h2]
    · split
      · have h1 : i - 28 < 2 := by omega
        have h2 : 28 + (i - 28) = i := by omega
        simp [h1, h2]
      · split
        · obtain rfl : i = 30 := by omega
          simp
        · obtain rfl : i = 31 := by omega
          simp

end Sys2Proof

namespace Sys2Proof.Machine

/-! ### The Address Unroller and the Encoder -/

/-- The strip index without a case split: the chip in bits 10..7, the strip in bits 6..0. -/
theorem unroll_stripIndex_toNat (p : Position) :
    (unroll p).stripIndex.toNat = p.toNat / 256 * 128 + p.toNat % 128 := by
  have hp := p.isLt
  have hc : chipId p = p.toNat / 256 := by
    simp [chipId, BitVec.extractLsb'_toNat, Nat.shiftRight_eq_div_pow]; omega
  have hs : stripId p = p.toNat % 256 := by
    simp [stripId, BitVec.extractLsb'_toNat]
  unfold unroll
  split <;> simp [hc, hs] at * <;> omega

/-- The row is bit 7 of the position. -/
theorem unroll_row (p : Position) : (unroll p).row = p.extractLsb' 7 1 := by
  have hs : stripId p = p.toNat % 256 := by
    simp [stripId, BitVec.extractLsb'_toNat]
  apply BitVec.eq_of_toNat_eq
  unfold unroll
  split <;> simp [hs, BitVec.extractLsb'_toNat, Nat.shiftRight_eq_div_pow] at * <;> omega

/-- The unroller rewires the position's bits (42_address_unroller.md R161). -/
theorem unroll_stripIndex (p : Position) :
    (unroll p).stripIndex = 0#1 ++ p.extractLsb' 8 4 ++ p.extractLsb' 0 7 := by
  apply BitVec.eq_of_toNat_eq
  have hp := p.isLt
  rw [unroll_stripIndex_toNat]
  simp only [BitVec.toNat_append, BitVec.extractLsb'_toNat, Nat.shiftRight_eq_div_pow]
  rw [← Nat.shiftLeft_add_eq_or_of_lt (by omega), ← Nat.shiftLeft_add_eq_or_of_lt (by omega)]
  simp [Nat.shiftLeft_eq]; omega

/-- The Encoder's record is the one that `encode` writes bit by bit. -/
theorem encodeRecord_eq_bits (h : DecodedHit) (last : Bool) : encodeRecord h last = encodeRecordBits h last := by
  have hn : nStrips h = h.size.extractLsb' 0 2 := by
    apply BitVec.eq_of_toNat_eq; simp [nStrips, BitVec.extractLsb'_toNat]
  simp [encodeRecord, recordOf, encodeRecordBits, unroll_row, unroll_stripIndex, hn]

@[simp] theorem encodeRecord_last (h : DecodedHit) (last : Bool) : recordLast (encodeRecord h last) = last := by
  rw [recordLast, encodeRecord, recordOf, recordWord_last]
  cases last <;> rfl

@[simp] theorem encodeRecord_id (h : DecodedHit) (last : Bool) :
    (encodeRecord h last).extractLsb' 0 16 = h.passthroughId := by
  rw [encodeRecord, recordOf, recordWord_id]

/-- No strip index reaches 2048 (42_address_unroller.md R162). -/
theorem encodeRecord_bit27 (h : DecodedHit) (last : Bool) : (encodeRecord h last).getLsbD 27 = false := by
  rw [encodeRecord, recordOf, recordWord_bit27]
  refine BitVec.testBit_toNat _ ▸ Nat.testBit_lt_two_pow ?_
  rw [unroll_stripIndex_toNat]
  have := h.position.isLt
  omega

end Sys2Proof.Machine
end

