-- ==== Sys2Proof/Laws/State.lean ====
section
/-!
SUPPORT. What each update of the state leaves in each field. Every lemma is true by definition; with them no proof
unfolds a record update.
-/

namespace Sys2Proof.Machine

variable (s : State)

/-! ### `State.emit` -/

@[simp] theorem State.emit_phase (w : Word64) : (State.emit w s).phase = s.phase := rfl
@[simp] theorem State.emit_rd (w : Word64) : (State.emit w s).rd = s.rd := rfl
@[simp] theorem State.emit_vs (w : Word64) : (State.emit w s).vs = s.vs := rfl
@[simp] theorem State.emit_fe (w : Word64) : (State.emit w s).fe = s.fe := rfl
@[simp] theorem State.emit_q (w : Word64) : (State.emit w s).q = s.q := rfl
@[simp] theorem State.emit_out (w : Word64) : (State.emit w s).out = s.out ++ [w] := rfl
@[simp] theorem State.emit_status (w : Word64) : (State.emit w s).status = s.status := rfl
@[simp] theorem State.emit_held (w : Word64) : (State.emit w s).held = s.held := rfl
@[simp] theorem State.emit_prev (w : Word64) : (State.emit w s).prev = s.prev := rfl
@[simp] theorem State.emit_ovf (w : Word64) : (State.emit w s).ovf = s.ovf := rfl
@[simp] theorem State.emit_mbuf (w : Word64) : (State.emit w s).mbuf = s.mbuf := rfl
@[simp] theorem State.emit_cfg (w : Word64) : (State.emit w s).cfg = s.cfg := rfl
@[simp] theorem State.emit_input (w : Word64) : (State.emit w s).input = s.input := rfl
@[simp] theorem State.emit_taking (w : Word64) : (State.emit w s).taking = s.taking := rfl
@[simp] theorem State.emit_schedule (w : Word64) : (State.emit w s).schedule = s.schedule := rfl
@[simp] theorem State.emit_unrolled (w : Word64) : (State.emit w s).unrolled = s.unrolled := rfl

/-! ### `State.emitAll` -/

@[simp] theorem State.emitAll_phase (ws : List Word64) : (State.emitAll ws s).phase = s.phase := rfl
@[simp] theorem State.emitAll_rd (ws : List Word64) : (State.emitAll ws s).rd = s.rd := rfl
@[simp] theorem State.emitAll_vs (ws : List Word64) : (State.emitAll ws s).vs = s.vs := rfl
@[simp] theorem State.emitAll_fe (ws : List Word64) : (State.emitAll ws s).fe = s.fe := rfl
@[simp] theorem State.emitAll_q (ws : List Word64) : (State.emitAll ws s).q = s.q := rfl
@[simp] theorem State.emitAll_out (ws : List Word64) : (State.emitAll ws s).out = s.out ++ ws := rfl
@[simp] theorem State.emitAll_status (ws : List Word64) : (State.emitAll ws s).status = s.status := rfl
@[simp] theorem State.emitAll_held (ws : List Word64) : (State.emitAll ws s).held = s.held := rfl
@[simp] theorem State.emitAll_prev (ws : List Word64) : (State.emitAll ws s).prev = s.prev := rfl
@[simp] theorem State.emitAll_ovf (ws : List Word64) : (State.emitAll ws s).ovf = s.ovf := rfl
@[simp] theorem State.emitAll_mbuf (ws : List Word64) : (State.emitAll ws s).mbuf = s.mbuf := rfl
@[simp] theorem State.emitAll_cfg (ws : List Word64) : (State.emitAll ws s).cfg = s.cfg := rfl
@[simp] theorem State.emitAll_input (ws : List Word64) : (State.emitAll ws s).input = s.input := rfl
@[simp] theorem State.emitAll_taking (ws : List Word64) : (State.emitAll ws s).taking = s.taking := rfl
@[simp] theorem State.emitAll_schedule (ws : List Word64) : (State.emitAll ws s).schedule = s.schedule := rfl
@[simp] theorem State.emitAll_unrolled (ws : List Word64) : (State.emitAll ws s).unrolled = s.unrolled := rfl

/-! ### `State.consume` -/

@[simp] theorem State.consume_phase : (State.consume s).phase = s.phase := rfl
@[simp] theorem State.consume_rd : (State.consume s).rd = s.rd + 1 := rfl
@[simp] theorem State.consume_vs : (State.consume s).vs = s.vs := rfl
@[simp] theorem State.consume_fe : (State.consume s).fe = s.fe := rfl
@[simp] theorem State.consume_q : (State.consume s).q = s.q := rfl
@[simp] theorem State.consume_out : (State.consume s).out = s.out := rfl
@[simp] theorem State.consume_status : (State.consume s).status = s.status := rfl
@[simp] theorem State.consume_held : (State.consume s).held = s.held := rfl
@[simp] theorem State.consume_prev : (State.consume s).prev = s.prev := rfl
@[simp] theorem State.consume_ovf : (State.consume s).ovf = s.ovf := rfl
@[simp] theorem State.consume_mbuf : (State.consume s).mbuf = s.mbuf := rfl
@[simp] theorem State.consume_cfg : (State.consume s).cfg = s.cfg := rfl
@[simp] theorem State.consume_input : (State.consume s).input = s.input := rfl
@[simp] theorem State.consume_taking : (State.consume s).taking = s.taking := rfl
@[simp] theorem State.consume_schedule : (State.consume s).schedule = s.schedule := rfl
@[simp] theorem State.consume_unrolled : (State.consume s).unrolled = s.unrolled := rfl

/-! ### `State.goto` -/

@[simp] theorem State.goto_phase (p : Phase) : (State.goto p s).phase = p := rfl
@[simp] theorem State.goto_rd (p : Phase) : (State.goto p s).rd = s.rd := rfl
@[simp] theorem State.goto_vs (p : Phase) : (State.goto p s).vs = s.vs := rfl
@[simp] theorem State.goto_fe (p : Phase) : (State.goto p s).fe = s.fe := rfl
@[simp] theorem State.goto_q (p : Phase) : (State.goto p s).q = s.q := rfl
@[simp] theorem State.goto_out (p : Phase) : (State.goto p s).out = s.out := rfl
@[simp] theorem State.goto_status (p : Phase) : (State.goto p s).status = s.status := rfl
@[simp] theorem State.goto_held (p : Phase) : (State.goto p s).held = s.held := rfl
@[simp] theorem State.goto_prev (p : Phase) : (State.goto p s).prev = s.prev := rfl
@[simp] theorem State.goto_ovf (p : Phase) : (State.goto p s).ovf = s.ovf := rfl
@[simp] theorem State.goto_mbuf (p : Phase) : (State.goto p s).mbuf = s.mbuf := rfl
@[simp] theorem State.goto_cfg (p : Phase) : (State.goto p s).cfg = s.cfg := rfl
@[simp] theorem State.goto_input (p : Phase) : (State.goto p s).input = s.input := rfl
@[simp] theorem State.goto_taking (p : Phase) : (State.goto p s).taking = s.taking := rfl
@[simp] theorem State.goto_schedule (p : Phase) : (State.goto p s).schedule = s.schedule := rfl
@[simp] theorem State.goto_unrolled (p : Phase) : (State.goto p s).unrolled = s.unrolled := rfl

/-! ### `State.clearModule` -/

@[simp] theorem State.clearModule_phase : (State.clearModule s).phase = s.phase := rfl
@[simp] theorem State.clearModule_rd : (State.clearModule s).rd = s.rd := rfl
@[simp] theorem State.clearModule_vs : (State.clearModule s).vs = s.vs := rfl
@[simp] theorem State.clearModule_fe : (State.clearModule s).fe = s.fe := rfl
@[simp] theorem State.clearModule_q : (State.clearModule s).q = s.q := rfl
@[simp] theorem State.clearModule_out : (State.clearModule s).out = s.out := rfl
@[simp] theorem State.clearModule_status : (State.clearModule s).status = s.status := rfl
@[simp] theorem State.clearModule_held : (State.clearModule s).held = none := rfl
@[simp] theorem State.clearModule_prev : (State.clearModule s).prev = none := rfl
@[simp] theorem State.clearModule_ovf : (State.clearModule s).ovf = false := rfl
@[simp] theorem State.clearModule_mbuf : (State.clearModule s).mbuf = [] := rfl
@[simp] theorem State.clearModule_cfg : (State.clearModule s).cfg = s.cfg := rfl
@[simp] theorem State.clearModule_input : (State.clearModule s).input = s.input := rfl
@[simp] theorem State.clearModule_taking : (State.clearModule s).taking = s.taking := rfl
@[simp] theorem State.clearModule_schedule : (State.clearModule s).schedule = s.schedule := rfl
@[simp] theorem State.clearModule_unrolled : (State.clearModule s).unrolled = Unrolled.idle := rfl

/-! ### `State.driveUnroller` -/

@[simp] theorem State.driveUnroller_phase (p : Position) : (State.driveUnroller p s).phase = s.phase := rfl
@[simp] theorem State.driveUnroller_rd (p : Position) : (State.driveUnroller p s).rd = s.rd := rfl
@[simp] theorem State.driveUnroller_vs (p : Position) : (State.driveUnroller p s).vs = s.vs := rfl
@[simp] theorem State.driveUnroller_fe (p : Position) : (State.driveUnroller p s).fe = s.fe := rfl
@[simp] theorem State.driveUnroller_q (p : Position) : (State.driveUnroller p s).q = s.q := rfl
@[simp] theorem State.driveUnroller_out (p : Position) : (State.driveUnroller p s).out = s.out := rfl
@[simp] theorem State.driveUnroller_status (p : Position) : (State.driveUnroller p s).status = s.status := rfl
@[simp] theorem State.driveUnroller_held (p : Position) : (State.driveUnroller p s).held = s.held := rfl
@[simp] theorem State.driveUnroller_prev (p : Position) : (State.driveUnroller p s).prev = s.prev := rfl
@[simp] theorem State.driveUnroller_ovf (p : Position) : (State.driveUnroller p s).ovf = s.ovf := rfl
@[simp] theorem State.driveUnroller_mbuf (p : Position) : (State.driveUnroller p s).mbuf = s.mbuf := rfl
@[simp] theorem State.driveUnroller_cfg (p : Position) : (State.driveUnroller p s).cfg = s.cfg := rfl
@[simp] theorem State.driveUnroller_input (p : Position) : (State.driveUnroller p s).input = s.input := rfl
@[simp] theorem State.driveUnroller_taking (p : Position) : (State.driveUnroller p s).taking = s.taking := rfl
@[simp] theorem State.driveUnroller_schedule (p : Position) : (State.driveUnroller p s).schedule = s.schedule := rfl
@[simp] theorem State.driveUnroller_unrolled (p : Position) : (State.driveUnroller p s).unrolled = unroll p := rfl

/-! ### `State.popCluster` -/

@[simp] theorem State.popCluster_phase : (State.popCluster s).phase = s.phase := rfl
@[simp] theorem State.popCluster_rd : (State.popCluster s).rd = s.rd := rfl
@[simp] theorem State.popCluster_vs : (State.popCluster s).vs = s.vs := rfl
@[simp] theorem State.popCluster_fe : (State.popCluster s).fe = s.fe := rfl
@[simp] theorem State.popCluster_q : (State.popCluster s).q = s.q.tail := rfl
@[simp] theorem State.popCluster_out : (State.popCluster s).out = s.out := rfl
@[simp] theorem State.popCluster_status : (State.popCluster s).status = s.status := rfl
@[simp] theorem State.popCluster_held : (State.popCluster s).held = s.held := rfl
@[simp] theorem State.popCluster_prev : (State.popCluster s).prev = s.prev := rfl
@[simp] theorem State.popCluster_ovf : (State.popCluster s).ovf = s.ovf := rfl
@[simp] theorem State.popCluster_mbuf : (State.popCluster s).mbuf = s.mbuf := rfl
@[simp] theorem State.popCluster_cfg : (State.popCluster s).cfg = s.cfg := rfl
@[simp] theorem State.popCluster_input : (State.popCluster s).input = s.input := rfl
@[simp] theorem State.popCluster_taking : (State.popCluster s).taking = s.taking := rfl
@[simp] theorem State.popCluster_schedule : (State.popCluster s).schedule = s.schedule := rfl
@[simp] theorem State.popCluster_unrolled : (State.popCluster s).unrolled = s.unrolled := rfl

/-! ### `State.leaveHeader` -/

@[simp] theorem State.leaveHeader_phase : (State.leaveHeader s).phase = .modhdr := rfl
@[simp] theorem State.leaveHeader_rd : (State.leaveHeader s).rd = s.rd := rfl
@[simp] theorem State.leaveHeader_vs : (State.leaveHeader s).vs = s.vs := rfl
@[simp] theorem State.leaveHeader_fe : (State.leaveHeader s).fe = s.fe := rfl
@[simp] theorem State.leaveHeader_q : (State.leaveHeader s).q = s.q := rfl
@[simp] theorem State.leaveHeader_out : (State.leaveHeader s).out = s.out := rfl
@[simp] theorem State.leaveHeader_status : (State.leaveHeader s).status = s.status := rfl
@[simp] theorem State.leaveHeader_held : (State.leaveHeader s).held = s.held := rfl
@[simp] theorem State.leaveHeader_prev : (State.leaveHeader s).prev = s.prev := rfl
@[simp] theorem State.leaveHeader_ovf : (State.leaveHeader s).ovf = s.ovf := rfl
@[simp] theorem State.leaveHeader_mbuf : (State.leaveHeader s).mbuf = s.mbuf := rfl
@[simp] theorem State.leaveHeader_cfg : (State.leaveHeader s).cfg = s.cfg := rfl
@[simp] theorem State.leaveHeader_input : (State.leaveHeader s).input = s.input := rfl
@[simp] theorem State.leaveHeader_taking : (State.leaveHeader s).taking = s.taking := rfl
@[simp] theorem State.leaveHeader_schedule : (State.leaveHeader s).schedule = s.schedule := rfl
@[simp] theorem State.leaveHeader_unrolled : (State.leaveHeader s).unrolled = s.unrolled := rfl

/-! ### `State.enterFlush` -/

@[simp] theorem State.enterFlush_phase : (State.enterFlush s).phase = .flush := rfl
@[simp] theorem State.enterFlush_rd : (State.enterFlush s).rd = s.rd := rfl
@[simp] theorem State.enterFlush_vs : (State.enterFlush s).vs = s.vs := rfl
@[simp] theorem State.enterFlush_fe : (State.enterFlush s).fe = s.fe := rfl
@[simp] theorem State.enterFlush_q : (State.enterFlush s).q = s.q := rfl
@[simp] theorem State.enterFlush_out : (State.enterFlush s).out = s.out := rfl
@[simp] theorem State.enterFlush_status : (State.enterFlush s).status = s.status := rfl
@[simp] theorem State.enterFlush_held : (State.enterFlush s).held = none := rfl
@[simp] theorem State.enterFlush_prev : (State.enterFlush s).prev = none := rfl
@[simp] theorem State.enterFlush_ovf : (State.enterFlush s).ovf = false := rfl
@[simp] theorem State.enterFlush_mbuf : (State.enterFlush s).mbuf = [] := rfl
@[simp] theorem State.enterFlush_cfg : (State.enterFlush s).cfg = s.cfg := rfl
@[simp] theorem State.enterFlush_input : (State.enterFlush s).input = s.input := rfl
@[simp] theorem State.enterFlush_taking : (State.enterFlush s).taking = s.taking := rfl
@[simp] theorem State.enterFlush_schedule : (State.enterFlush s).schedule = s.schedule := rfl
@[simp] theorem State.enterFlush_unrolled : (State.enterFlush s).unrolled = Unrolled.idle := rfl

/-! ### Fields that the conditional updates keep -/

@[simp] theorem State.pushHalf_rd (c : ClusterWord) : (State.pushHalf c s).rd = s.rd := by
  unfold State.pushHalf State.raiseError; split <;> [rfl; (split <;> rfl)]
@[simp] theorem State.pushHalf_vs (c : ClusterWord) : (State.pushHalf c s).vs = s.vs := by
  unfold State.pushHalf State.raiseError; split <;> [rfl; (split <;> rfl)]
@[simp] theorem State.pushHalf_fe (c : ClusterWord) : (State.pushHalf c s).fe = s.fe := by
  unfold State.pushHalf State.raiseError; split <;> [rfl; (split <;> rfl)]
@[simp] theorem State.pushHalf_out (c : ClusterWord) : (State.pushHalf c s).out = s.out := by
  unfold State.pushHalf State.raiseError; split <;> [rfl; (split <;> rfl)]
@[simp] theorem State.pushHalf_held (c : ClusterWord) : (State.pushHalf c s).held = s.held := by
  unfold State.pushHalf State.raiseError; split <;> [rfl; (split <;> rfl)]
@[simp] theorem State.pushHalf_prev (c : ClusterWord) : (State.pushHalf c s).prev = s.prev := by
  unfold State.pushHalf State.raiseError; split <;> [rfl; (split <;> rfl)]
@[simp] theorem State.pushHalf_ovf (c : ClusterWord) : (State.pushHalf c s).ovf = s.ovf := by
  unfold State.pushHalf State.raiseError; split <;> [rfl; (split <;> rfl)]
@[simp] theorem State.pushHalf_mbuf (c : ClusterWord) : (State.pushHalf c s).mbuf = s.mbuf := by
  unfold State.pushHalf State.raiseError; split <;> [rfl; (split <;> rfl)]
@[simp] theorem State.pushHalf_cfg (c : ClusterWord) : (State.pushHalf c s).cfg = s.cfg := by
  unfold State.pushHalf State.raiseError; split <;> [rfl; (split <;> rfl)]
@[simp] theorem State.pushHalf_input (c : ClusterWord) : (State.pushHalf c s).input = s.input := by
  unfold State.pushHalf State.raiseError; split <;> [rfl; (split <;> rfl)]
@[simp] theorem State.pushHalf_taking (c : ClusterWord) : (State.pushHalf c s).taking = s.taking := by
  unfold State.pushHalf State.raiseError; split <;> [rfl; (split <;> rfl)]
@[simp] theorem State.pushHalf_schedule (c : ClusterWord) : (State.pushHalf c s).schedule = s.schedule := by
  unfold State.pushHalf State.raiseError; split <;> [rfl; (split <;> rfl)]
@[simp] theorem State.pushHalf_unrolled (c : ClusterWord) : (State.pushHalf c s).unrolled = s.unrolled := by
  unfold State.pushHalf State.raiseError; split <;> [rfl; (split <;> rfl)]

@[simp] theorem State.sink_phase (w : Word64) : (State.sink w s).phase = s.phase := by
  unfold State.sink; split <;> rfl
@[simp] theorem State.sink_rd (w : Word64) : (State.sink w s).rd = s.rd := by
  unfold State.sink; split <;> rfl
@[simp] theorem State.sink_vs (w : Word64) : (State.sink w s).vs = s.vs := by
  unfold State.sink; split <;> rfl
@[simp] theorem State.sink_fe (w : Word64) : (State.sink w s).fe = s.fe := by
  unfold State.sink; split <;> rfl
@[simp] theorem State.sink_q (w : Word64) : (State.sink w s).q = s.q := by
  unfold State.sink; split <;> rfl
@[simp] theorem State.sink_status (w : Word64) : (State.sink w s).status = s.status := by
  unfold State.sink; split <;> rfl
@[simp] theorem State.sink_held (w : Word64) : (State.sink w s).held = s.held := by
  unfold State.sink; split <;> rfl
@[simp] theorem State.sink_prev (w : Word64) : (State.sink w s).prev = s.prev := by
  unfold State.sink; split <;> rfl
@[simp] theorem State.sink_ovf (w : Word64) : (State.sink w s).ovf = s.ovf := by
  unfold State.sink; split <;> rfl
@[simp] theorem State.sink_cfg (w : Word64) : (State.sink w s).cfg = s.cfg := by
  unfold State.sink; split <;> rfl
@[simp] theorem State.sink_input (w : Word64) : (State.sink w s).input = s.input := by
  unfold State.sink; split <;> rfl
@[simp] theorem State.sink_taking (w : Word64) : (State.sink w s).taking = s.taking := by
  unfold State.sink; split <;> rfl
@[simp] theorem State.sink_schedule (w : Word64) : (State.sink w s).schedule = s.schedule := by
  unfold State.sink; split <;> rfl
@[simp] theorem State.sink_unrolled (w : Word64) : (State.sink w s).unrolled = s.unrolled := by
  unfold State.sink; split <;> rfl

@[simp] theorem State.packOdd_phase (r : Record) : (State.packOdd r s).phase = s.phase := by
  unfold State.packOdd; split <;> simp
@[simp] theorem State.packOdd_rd (r : Record) : (State.packOdd r s).rd = s.rd := by
  unfold State.packOdd; split <;> simp
@[simp] theorem State.packOdd_vs (r : Record) : (State.packOdd r s).vs = s.vs := by
  unfold State.packOdd; split <;> simp
@[simp] theorem State.packOdd_fe (r : Record) : (State.packOdd r s).fe = s.fe := by
  unfold State.packOdd; split <;> simp
@[simp] theorem State.packOdd_q (r : Record) : (State.packOdd r s).q = s.q := by
  unfold State.packOdd; split <;> simp
@[simp] theorem State.packOdd_status (r : Record) : (State.packOdd r s).status = s.status := by
  unfold State.packOdd; split <;> simp
@[simp] theorem State.packOdd_held (r : Record) : (State.packOdd r s).held = s.held := by
  unfold State.packOdd; split <;> simp
@[simp] theorem State.packOdd_prev (r : Record) : (State.packOdd r s).prev = s.prev := by
  unfold State.packOdd; split <;> simp
@[simp] theorem State.packOdd_ovf (r : Record) : (State.packOdd r s).ovf = s.ovf := by
  unfold State.packOdd; split <;> simp
@[simp] theorem State.packOdd_cfg (r : Record) : (State.packOdd r s).cfg = s.cfg := by
  unfold State.packOdd; split <;> simp
@[simp] theorem State.packOdd_input (r : Record) : (State.packOdd r s).input = s.input := by
  unfold State.packOdd; split <;> simp
@[simp] theorem State.packOdd_taking (r : Record) : (State.packOdd r s).taking = s.taking := by
  unfold State.packOdd; split <;> simp
@[simp] theorem State.packOdd_schedule (r : Record) : (State.packOdd r s).schedule = s.schedule := by
  unfold State.packOdd; split <;> simp
@[simp] theorem State.packOdd_unrolled (r : Record) : (State.packOdd r s).unrolled = s.unrolled := by
  unfold State.packOdd; split <;> simp

@[simp] theorem State.packPair_phase (a b : Record) : (State.packPair a b s).phase = s.phase := by
  simp [State.packPair]
@[simp] theorem State.packPair_rd (a b : Record) : (State.packPair a b s).rd = s.rd := by
  simp [State.packPair]
@[simp] theorem State.packPair_vs (a b : Record) : (State.packPair a b s).vs = s.vs := by
  simp [State.packPair]
@[simp] theorem State.packPair_fe (a b : Record) : (State.packPair a b s).fe = s.fe := by
  simp [State.packPair]
@[simp] theorem State.packPair_q (a b : Record) : (State.packPair a b s).q = s.q := by
  simp [State.packPair]
@[simp] theorem State.packPair_status (a b : Record) : (State.packPair a b s).status = s.status := by
  simp [State.packPair]
@[simp] theorem State.packPair_prev (a b : Record) : (State.packPair a b s).prev = s.prev := by
  simp [State.packPair]
@[simp] theorem State.packPair_ovf (a b : Record) : (State.packPair a b s).ovf = s.ovf := by
  simp [State.packPair]
@[simp] theorem State.packPair_cfg (a b : Record) : (State.packPair a b s).cfg = s.cfg := by
  simp [State.packPair]
@[simp] theorem State.packPair_input (a b : Record) : (State.packPair a b s).input = s.input := by
  simp [State.packPair]
@[simp] theorem State.packPair_taking (a b : Record) : (State.packPair a b s).taking = s.taking := by
  simp [State.packPair]
@[simp] theorem State.packPair_schedule (a b : Record) : (State.packPair a b s).schedule = s.schedule := by
  simp [State.packPair]
@[simp] theorem State.packPair_unrolled (a b : Record) : (State.packPair a b s).unrolled = s.unrolled := by
  simp [State.packPair]

@[simp] theorem State.packerAccept_phase (r : Record) : (State.packerAccept r s).phase = s.phase := by
  unfold State.packerAccept; split <;> [(split <;> simp); simp]
@[simp] theorem State.packerAccept_rd (r : Record) : (State.packerAccept r s).rd = s.rd := by
  unfold State.packerAccept; split <;> [(split <;> simp); simp]
@[simp] theorem State.packerAccept_vs (r : Record) : (State.packerAccept r s).vs = s.vs := by
  unfold State.packerAccept; split <;> [(split <;> simp); simp]
@[simp] theorem State.packerAccept_fe (r : Record) : (State.packerAccept r s).fe = s.fe := by
  unfold State.packerAccept; split <;> [(split <;> simp); simp]
@[simp] theorem State.packerAccept_q (r : Record) : (State.packerAccept r s).q = s.q := by
  unfold State.packerAccept; split <;> [(split <;> simp); simp]
@[simp] theorem State.packerAccept_status (r : Record) : (State.packerAccept r s).status = s.status := by
  unfold State.packerAccept; split <;> [(split <;> simp); simp]
@[simp] theorem State.packerAccept_prev (r : Record) : (State.packerAccept r s).prev = s.prev := by
  unfold State.packerAccept; split <;> [(split <;> simp); simp]
@[simp] theorem State.packerAccept_ovf (r : Record) : (State.packerAccept r s).ovf = s.ovf := by
  unfold State.packerAccept; split <;> [(split <;> simp); simp]
@[simp] theorem State.packerAccept_cfg (r : Record) : (State.packerAccept r s).cfg = s.cfg := by
  unfold State.packerAccept; split <;> [(split <;> simp); simp]
@[simp] theorem State.packerAccept_input (r : Record) : (State.packerAccept r s).input = s.input := by
  unfold State.packerAccept; split <;> [(split <;> simp); simp]
@[simp] theorem State.packerAccept_taking (r : Record) : (State.packerAccept r s).taking = s.taking := by
  unfold State.packerAccept; split <;> [(split <;> simp); simp]
@[simp] theorem State.packerAccept_schedule (r : Record) : (State.packerAccept r s).schedule = s.schedule := by
  unfold State.packerAccept; split <;> [(split <;> simp); simp]
@[simp] theorem State.packerAccept_unrolled (r : Record) : (State.packerAccept r s).unrolled = s.unrolled := by
  unfold State.packerAccept; split <;> [(split <;> simp); simp]

@[simp] theorem State.overlapTrack_phase (h : DecodedHit) : (State.overlapTrack h s).phase = s.phase := rfl
@[simp] theorem State.overlapTrack_rd (h : DecodedHit) : (State.overlapTrack h s).rd = s.rd := rfl
@[simp] theorem State.overlapTrack_vs (h : DecodedHit) : (State.overlapTrack h s).vs = s.vs := rfl
@[simp] theorem State.overlapTrack_fe (h : DecodedHit) : (State.overlapTrack h s).fe = s.fe := rfl
@[simp] theorem State.overlapTrack_q (h : DecodedHit) : (State.overlapTrack h s).q = s.q := rfl
@[simp] theorem State.overlapTrack_out (h : DecodedHit) : (State.overlapTrack h s).out = s.out := rfl
@[simp] theorem State.overlapTrack_status (h : DecodedHit) : (State.overlapTrack h s).status = s.status := rfl
@[simp] theorem State.overlapTrack_held (h : DecodedHit) : (State.overlapTrack h s).held = s.held := rfl
@[simp] theorem State.overlapTrack_mbuf (h : DecodedHit) : (State.overlapTrack h s).mbuf = s.mbuf := rfl
@[simp] theorem State.overlapTrack_cfg (h : DecodedHit) : (State.overlapTrack h s).cfg = s.cfg := rfl
@[simp] theorem State.overlapTrack_input (h : DecodedHit) : (State.overlapTrack h s).input = s.input := rfl
@[simp] theorem State.overlapTrack_taking (h : DecodedHit) : (State.overlapTrack h s).taking = s.taking := rfl
@[simp] theorem State.overlapTrack_schedule (h : DecodedHit) : (State.overlapTrack h s).schedule = s.schedule := rfl
@[simp] theorem State.overlapTrack_unrolled (h : DecodedHit) : (State.overlapTrack h s).unrolled = s.unrolled := rfl

@[simp] theorem State.releaseModule_phase : (State.releaseModule s).phase = s.phase := by
  unfold State.releaseModule; split <;> [rfl; (split <;> rfl)]
@[simp] theorem State.releaseModule_rd : (State.releaseModule s).rd = s.rd := by
  unfold State.releaseModule; split <;> [rfl; (split <;> rfl)]
@[simp] theorem State.releaseModule_vs : (State.releaseModule s).vs = s.vs := by
  unfold State.releaseModule; split <;> [rfl; (split <;> rfl)]
@[simp] theorem State.releaseModule_fe : (State.releaseModule s).fe = s.fe := by
  unfold State.releaseModule; split <;> [rfl; (split <;> rfl)]
@[simp] theorem State.releaseModule_q : (State.releaseModule s).q = s.q := by
  unfold State.releaseModule; split <;> [rfl; (split <;> rfl)]
@[simp] theorem State.releaseModule_status : (State.releaseModule s).status = s.status := by
  unfold State.releaseModule; split <;> [rfl; (split <;> rfl)]
@[simp] theorem State.releaseModule_held : (State.releaseModule s).held = s.held := by
  unfold State.releaseModule; split <;> [rfl; (split <;> rfl)]
@[simp] theorem State.releaseModule_prev : (State.releaseModule s).prev = s.prev := by
  unfold State.releaseModule; split <;> [rfl; (split <;> rfl)]
@[simp] theorem State.releaseModule_ovf : (State.releaseModule s).ovf = s.ovf := by
  unfold State.releaseModule; split <;> [rfl; (split <;> rfl)]
@[simp] theorem State.releaseModule_mbuf : (State.releaseModule s).mbuf = s.mbuf := by
  unfold State.releaseModule; split <;> [rfl; (split <;> rfl)]
@[simp] theorem State.releaseModule_cfg : (State.releaseModule s).cfg = s.cfg := by
  unfold State.releaseModule; split <;> [rfl; (split <;> rfl)]
@[simp] theorem State.releaseModule_input : (State.releaseModule s).input = s.input := by
  unfold State.releaseModule; split <;> [rfl; (split <;> rfl)]
@[simp] theorem State.releaseModule_taking : (State.releaseModule s).taking = s.taking := by
  unfold State.releaseModule; split <;> [rfl; (split <;> rfl)]
@[simp] theorem State.releaseModule_schedule : (State.releaseModule s).schedule = s.schedule := by
  unfold State.releaseModule; split <;> [rfl; (split <;> rfl)]
@[simp] theorem State.releaseModule_unrolled : (State.releaseModule s).unrolled = s.unrolled := by
  unfold State.releaseModule; split <;> [rfl; (split <;> rfl)]

@[simp] theorem State.encodeAndPack_phase (h : DecodedHit) (l : Bool) : (State.encodeAndPack h l s).phase = s.phase := by
  simp [State.encodeAndPack]
@[simp] theorem State.encodeAndPack_rd (h : DecodedHit) (l : Bool) : (State.encodeAndPack h l s).rd = s.rd := by
  simp [State.encodeAndPack]
@[simp] theorem State.encodeAndPack_vs (h : DecodedHit) (l : Bool) : (State.encodeAndPack h l s).vs = s.vs := by
  simp [State.encodeAndPack]
@[simp] theorem State.encodeAndPack_fe (h : DecodedHit) (l : Bool) : (State.encodeAndPack h l s).fe = s.fe := by
  simp [State.encodeAndPack]
@[simp] theorem State.encodeAndPack_q (h : DecodedHit) (l : Bool) : (State.encodeAndPack h l s).q = s.q := by
  simp [State.encodeAndPack]
@[simp] theorem State.encodeAndPack_status (h : DecodedHit) (l : Bool) : (State.encodeAndPack h l s).status = s.status := by
  simp [State.encodeAndPack]
@[simp] theorem State.encodeAndPack_prev (h : DecodedHit) (l : Bool) : (State.encodeAndPack h l s).prev = s.prev := by
  simp [State.encodeAndPack]
@[simp] theorem State.encodeAndPack_ovf (h : DecodedHit) (l : Bool) : (State.encodeAndPack h l s).ovf = s.ovf := by
  simp [State.encodeAndPack]
@[simp] theorem State.encodeAndPack_cfg (h : DecodedHit) (l : Bool) : (State.encodeAndPack h l s).cfg = s.cfg := by
  simp [State.encodeAndPack]
@[simp] theorem State.encodeAndPack_input (h : DecodedHit) (l : Bool) : (State.encodeAndPack h l s).input = s.input := by
  simp [State.encodeAndPack]
@[simp] theorem State.encodeAndPack_taking (h : DecodedHit) (l : Bool) : (State.encodeAndPack h l s).taking = s.taking := by
  simp [State.encodeAndPack]
@[simp] theorem State.encodeAndPack_schedule (h : DecodedHit) (l : Bool) : (State.encodeAndPack h l s).schedule = s.schedule := by
  simp [State.encodeAndPack]

@[simp] theorem State.clock_phase : (State.clock s).phase = s.phase := by
  unfold State.clock; split <;> rfl
@[simp] theorem State.clock_rd : (State.clock s).rd = s.rd := by
  unfold State.clock; split <;> rfl
@[simp] theorem State.clock_vs : (State.clock s).vs = s.vs := by
  unfold State.clock; split <;> rfl
@[simp] theorem State.clock_fe : (State.clock s).fe = s.fe := by
  unfold State.clock; split <;> rfl
@[simp] theorem State.clock_q : (State.clock s).q = s.q := by
  unfold State.clock; split <;> rfl
@[simp] theorem State.clock_out : (State.clock s).out = s.out := by
  unfold State.clock; split <;> rfl
@[simp] theorem State.clock_status : (State.clock s).status = s.status := by
  unfold State.clock; split <;> rfl
@[simp] theorem State.clock_held : (State.clock s).held = s.held := by
  unfold State.clock; split <;> rfl
@[simp] theorem State.clock_prev : (State.clock s).prev = s.prev := by
  unfold State.clock; split <;> rfl
@[simp] theorem State.clock_ovf : (State.clock s).ovf = s.ovf := by
  unfold State.clock; split <;> rfl
@[simp] theorem State.clock_mbuf : (State.clock s).mbuf = s.mbuf := by
  unfold State.clock; split <;> rfl
@[simp] theorem State.clock_cfg : (State.clock s).cfg = s.cfg := by
  unfold State.clock; split <;> rfl
@[simp] theorem State.clock_input : (State.clock s).input = s.input := by
  unfold State.clock; split <;> rfl
@[simp] theorem State.clock_taking : (State.clock s).taking = s.taking := by
  unfold State.clock; split <;> rfl
@[simp] theorem State.clock_unrolled : (State.clock s).unrolled = s.unrolled := by
  unfold State.clock; split <;> rfl

end Sys2Proof.Machine
end

