-- ==== Sys2Proof/Laws/Ops.lean ====
section
/-!
SUPPORT. One lemma for each shared operation that says everything it can do; a proof cites it and does not unfold the
operation.
-/

namespace Sys2Proof.Machine

/-! ### Strip lines -/

theorem pushHalf_zero (s : State) : s.pushHalf 0#32 = s := by simp [State.pushHalf]

theorem pushHalf_full {c : ClusterWord} {s : State} (hc : c ≠ 0#32) (hf : queueFull s.cfg s.q = true) :
    s.pushHalf c = { s with status := .queueOverflow, phase := .fault } := by
  simp [State.pushHalf, hc, hf, State.raiseError]

theorem pushHalf_room {c : ClusterWord} {s : State} (hc : c ≠ 0#32) (hf : queueFull s.cfg s.q = false) :
    s.pushHalf c = { s with q := s.q ++ [c] } := by
  simp [State.pushHalf, hc, hf]

theorem mem_lineClusters {w : Word64} {c : ClusterWord} (h : c ∈ lineClusters w) : c ≠ 0#32 := by
  have := (List.mem_filter.mp h).2
  simpa using this

/-- A strip line either queues its nonzero halves, as `pushLine` says, or stops the frame with a queue that `pushLine`
has overflowed. -/
theorem queueLine_spec (hi lo : ClusterWord) (s : State) (hp : s.phase ≠ .fault) :
    (∃ q', pushLine s.cfg s.q (joinHalves hi lo) = some q' ∧ s.queueLine hi lo = { s with rd := s.rd + 1, q := q' }) ∨
    (∃ q', pushLine s.cfg s.q (joinHalves hi lo) = none ∧
      (q' = s.q ∨ (hi ≠ 0#32 ∧ queueFull s.cfg s.q = false ∧ q' = s.q ++ [hi])) ∧
      s.queueLine hi lo =
        { s with rd := s.rd + 1, q := q', status := .queueOverflow, phase := .fault }) := by
  unfold State.queueLine pushLine lineClusters
  simp only [upperHalf_joinHalves, lowerHalf_joinHalves]
  by_cases h1 : hi = 0#32
  · subst h1
    by_cases h2 : lo = 0#32
    · subst h2
      left; exact ⟨s.q, by simp [pushHalf_zero, hp, State.consume]⟩
    · cases hf : queueFull s.cfg s.q
      · left
        refine ⟨s.q ++ [lo], ?_, ?_⟩
        · simp [h2, List.filter, pushOne, hf]
        · rw [pushHalf_zero]; simp only [State.consume_phase, hp, if_false]
          rw [pushHalf_room h2 (by simpa using hf)]; rfl
      · right
        refine ⟨s.q, ?_, .inl rfl, ?_⟩
        · simp [h2, List.filter, pushOne, hf]
        · rw [pushHalf_zero]; simp only [State.consume_phase, hp, if_false]
          rw [pushHalf_full h2 (by simpa using hf)]; rfl
  · cases hf : queueFull s.cfg s.q
    · rw [pushHalf_room h1 (by simpa using hf)]
      by_cases h2 : lo = 0#32
      · subst h2
        left
        refine ⟨s.q ++ [hi], ?_, ?_⟩
        · simp [h1, List.filter, pushOne, hf]
        · simp only [State.consume_phase, hp, if_false, pushHalf_zero]; rfl
      · cases hf2 : queueFull s.cfg (s.q ++ [hi])
        · left
          refine ⟨s.q ++ [hi] ++ [lo], ?_, ?_⟩
          · simp [h1, h2, List.filter, pushOne, hf, hf2]
          · simp only [State.consume_phase, hp, if_false]
            rw [pushHalf_room h2 (by simpa using hf2)]; rfl
        · right
          refine ⟨s.q ++ [hi], ?_, .inr ⟨h1, rfl, rfl⟩, ?_⟩
          · simp [h1, h2, List.filter, pushOne, hf, hf2]
          · simp only [State.consume_phase, hp, if_false]
            rw [pushHalf_full h2 (by simpa using hf2)]; rfl
    · right
      refine ⟨s.q, ?_, .inl rfl, ?_⟩
      · by_cases h2 : lo = 0 <;> simp [h1, h2, List.filter, pushOne, hf]
      · rw [pushHalf_full h1 (by simpa using hf)]; rfl

/-- What `pushLine` gives is the queue with the line's nonzero halves, and it fits the capacity. -/
theorem pushLine_eq {cfg : Cfg} {q q' : List ClusterWord} {w : Word64} (h : pushLine cfg q w = some q') :
    q' = q ++ lineClusters w ∧ (∀ n ∈ cfg.queueCapacity, q.length ≤ n → q'.length ≤ n) := by
  unfold pushLine at h
  generalize lineClusters w = cs at h
  induction cs generalizing q with
  | nil => simp at h; simp [h]
  | cons c cs ih =>
    simp only [List.foldlM_cons, pushOne] at h
    split at h
    · simp at h
    · rename_i hf
      obtain ⟨h1, h2⟩ := ih (by simpa using h)
      refine ⟨by simpa using h1, fun n hn hl => h2 n hn ?_⟩
      simp only [queueFull, Option.mem_def.mp hn] at hf
      simp only [beq_iff_eq] at hf
      simp
      omega

/-- An unbounded queue never overflows (60_exceptions.md R233). -/
theorem pushLine_unbounded {cfg : Cfg} (hc : cfg.queueCapacity = none) (q : List ClusterWord) (w : Word64) :
    pushLine cfg q w = some (q ++ lineClusters w) := by
  unfold pushLine
  generalize lineClusters w = cs
  induction cs generalizing q with
  | nil => simp
  | cons c cs ih => simp [List.foldlM_cons, pushOne, queueFull, hc, ih]

/-! ### The Packer and the adjacency check -/

/-- The packed words made so far: in `out` with the check off, in `mbuf` with it on. -/
def State.packed (s : State) : List Word64 :=
  match s.cfg.overlapCheck with
  | .off => s.out
  | .on => s.mbuf

/-- `s` with its packed words replaced. -/
def State.withPacked (ws : List Word64) (s : State) : State :=
  match s.cfg.overlapCheck with
  | .off => { s with out := ws }
  | .on => { s with mbuf := ws }

@[simp] theorem packed_withPacked (ws : List Word64) (s : State) : (s.withPacked ws).packed = ws := by
  unfold State.withPacked State.packed
  cases h : s.cfg.overlapCheck <;> simp [h]

@[simp] theorem withPacked_phase (ws : List Word64) (s : State) : (s.withPacked ws).phase = s.phase := by
  unfold State.withPacked; split <;> rfl
@[simp] theorem withPacked_rd (ws : List Word64) (s : State) : (s.withPacked ws).rd = s.rd := by
  unfold State.withPacked; split <;> rfl
@[simp] theorem withPacked_vs (ws : List Word64) (s : State) : (s.withPacked ws).vs = s.vs := by
  unfold State.withPacked; split <;> rfl
@[simp] theorem withPacked_fe (ws : List Word64) (s : State) : (s.withPacked ws).fe = s.fe := by
  unfold State.withPacked; split <;> rfl
@[simp] theorem withPacked_q (ws : List Word64) (s : State) : (s.withPacked ws).q = s.q := by
  unfold State.withPacked; split <;> rfl
@[simp] theorem withPacked_status (ws : List Word64) (s : State) : (s.withPacked ws).status = s.status := by
  unfold State.withPacked; split <;> rfl
@[simp] theorem withPacked_held (ws : List Word64) (s : State) : (s.withPacked ws).held = s.held := by
  unfold State.withPacked; split <;> rfl
@[simp] theorem withPacked_prev (ws : List Word64) (s : State) : (s.withPacked ws).prev = s.prev := by
  unfold State.withPacked; split <;> rfl
@[simp] theorem withPacked_ovf (ws : List Word64) (s : State) : (s.withPacked ws).ovf = s.ovf := by
  unfold State.withPacked; split <;> rfl
@[simp] theorem withPacked_cfg (ws : List Word64) (s : State) : (s.withPacked ws).cfg = s.cfg := by
  unfold State.withPacked; split <;> rfl
@[simp] theorem withPacked_input (ws : List Word64) (s : State) : (s.withPacked ws).input = s.input := by
  unfold State.withPacked; split <;> rfl
@[simp] theorem withPacked_taking (ws : List Word64) (s : State) : (s.withPacked ws).taking = s.taking := by
  unfold State.withPacked; split <;> rfl
@[simp] theorem withPacked_schedule (ws : List Word64) (s : State) : (s.withPacked ws).schedule = s.schedule := by
  unfold State.withPacked; split <;> rfl
@[simp] theorem withPacked_unrolled (ws : List Word64) (s : State) : (s.withPacked ws).unrolled = s.unrolled := by
  unfold State.withPacked; split <;> rfl

theorem sink_eq (w : Word64) (s : State) : s.sink w = s.withPacked (s.packed ++ [w]) := by
  unfold State.sink State.withPacked State.packed
  cases s.cfg.overlapCheck <;> rfl

theorem oddWord_ne_zero {r : Record} (h : recordLast r = true) : oddWord r ≠ 0#64 := by
  intro h0
  have : (oddWord r).getLsbD 63 = false := by rw [h0]; rfl
  rw [oddWord, joinHalves_bit] at this
  simp only [recordLast] at h
  simp_all

/-- The odd-element flush of a final record always appends its word (43_encoder_packer.md R185). -/
theorem packOdd_last {r : Record} (h : recordLast r = true) (s : State) : s.packOdd r = s.sink (oddWord r) := by
  simp [State.packOdd, oddWord_ne_zero h]

/-- The unroller's wire is only between the two halves of the operation. -/
theorem encodeAndPack_eq (h : DecodedHit) (last : Bool) (s : State) :
    s.encodeAndPack h last = { s with unrolled := Unrolled.idle }.packerAccept (encodeRecord h last) := rfl

/-- `PackerAccept` on the word level: the held record and the words that leave. -/
def packerStep (held : Option Record) (r : Record) : Option Record × List Word64 :=
  match held with
  | none => if recordLast r then (none, [oddWord r]) else (some r, [])
  | some a => (none, [pairWord a r])

theorem packerAccept_eq (r : Record) (s : State) :
    s.packerAccept r =
      ({ s with held := (packerStep s.held r).1 }).withPacked (s.packed ++ (packerStep s.held r).2) := by
  obtain ⟨phase, rd, vs, fe, q, out, status, held, prev, ovf, mbuf, cfg, input, taking, schedule, unrolled⟩ := s
  obtain ⟨H, F, oc, cap, lw⟩ := cfg
  cases held with
  | none =>
    cases hl : recordLast r
    · cases oc <;> simp [State.packerAccept, packerStep, hl, State.withPacked, State.packed]
    · cases oc <;>
        simp [State.packerAccept, packerStep, hl, State.withPacked, State.packed, packOdd_last hl, State.sink,
          State.emit]
  | some a =>
    cases oc <;> simp [State.packerAccept, packerStep, State.withPacked, State.packed, State.packPair, State.sink,
      State.emit]

/-- A final record leaves no record held (43_encoder_packer.md R188). -/
theorem packerAccept_held_last {r : Record} (h : recordLast r = true) (s : State) :
    (s.packerAccept r).held = none := by
  unfold State.packerAccept
  split
  · rename_i hh; simp [h, packOdd_last h, hh]
  · simp [State.packPair]

/-! ### Draining the queue: what it keeps -/

section Kept

variable (hs : List DecodedHit) (fin : Bool) (s : State)

theorem acceptHits_keeps :
    (State.acceptHits hs fin s).phase = s.phase ∧ (State.acceptHits hs fin s).rd = s.rd ∧
    (State.acceptHits hs fin s).vs = s.vs ∧ (State.acceptHits hs fin s).fe = s.fe ∧
    (State.acceptHits hs fin s).q = s.q ∧ (State.acceptHits hs fin s).status = s.status ∧
    (State.acceptHits hs fin s).cfg = s.cfg ∧ (State.acceptHits hs fin s).input = s.input ∧
    (State.acceptHits hs fin s).taking = s.taking ∧ (State.acceptHits hs fin s).schedule = s.schedule := by
  induction hs generalizing s with
  | nil => simp [State.acceptHits]
  | cons h hs ih => simpa [State.acceptHits] using ih ((s.overlapTrack h).encodeAndPack h (fin && hs.isEmpty))

@[simp] theorem acceptHits_phase : (State.acceptHits hs fin s).phase = s.phase := (acceptHits_keeps hs fin s).1
@[simp] theorem acceptHits_rd : (State.acceptHits hs fin s).rd = s.rd := (acceptHits_keeps hs fin s).2.1
@[simp] theorem acceptHits_vs : (State.acceptHits hs fin s).vs = s.vs := (acceptHits_keeps hs fin s).2.2.1
@[simp] theorem acceptHits_fe : (State.acceptHits hs fin s).fe = s.fe := (acceptHits_keeps hs fin s).2.2.2.1
@[simp] theorem acceptHits_q : (State.acceptHits hs fin s).q = s.q := (acceptHits_keeps hs fin s).2.2.2.2.1
@[simp] theorem acceptHits_status : (State.acceptHits hs fin s).status = s.status :=
  (acceptHits_keeps hs fin s).2.2.2.2.2.1
@[simp] theorem acceptHits_cfg : (State.acceptHits hs fin s).cfg = s.cfg := (acceptHits_keeps hs fin s).2.2.2.2.2.2.1
@[simp] theorem acceptHits_input : (State.acceptHits hs fin s).input = s.input :=
  (acceptHits_keeps hs fin s).2.2.2.2.2.2.2.1
@[simp] theorem acceptHits_taking : (State.acceptHits hs fin s).taking = s.taking :=
  (acceptHits_keeps hs fin s).2.2.2.2.2.2.2.2.1
@[simp] theorem acceptHits_schedule : (State.acceptHits hs fin s).schedule = s.schedule :=
  (acceptHits_keeps hs fin s).2.2.2.2.2.2.2.2.2

@[simp] theorem takeHits_phase : (s.takeHits hs).phase = s.phase := by simp [State.takeHits]
@[simp] theorem takeHits_rd : (s.takeHits hs).rd = s.rd := by simp [State.takeHits]
@[simp] theorem takeHits_vs : (s.takeHits hs).vs = s.vs := by simp [State.takeHits]
@[simp] theorem takeHits_fe : (s.takeHits hs).fe = s.fe := by simp [State.takeHits]
@[simp] theorem takeHits_q : (s.takeHits hs).q = s.q.tail := by simp [State.takeHits]
@[simp] theorem takeHits_status : (s.takeHits hs).status = s.status := by simp [State.takeHits]
@[simp] theorem takeHits_cfg : (s.takeHits hs).cfg = s.cfg := by simp [State.takeHits]
@[simp] theorem takeHits_input : (s.takeHits hs).input = s.input := by simp [State.takeHits]
@[simp] theorem takeHits_taking : (s.takeHits hs).taking = s.taking := by simp [State.takeHits]
@[simp] theorem takeHits_schedule : (s.takeHits hs).schedule = s.schedule := by simp [State.takeHits]

end Kept

theorem takeCluster_nonzero {c : ClusterWord} (hc : c ≠ 0#32) (s : State) :
    s.takeCluster c = s.takeHits (decodeOne c) := by simp [State.takeCluster, hc]

theorem drain_keeps (cs : List ClusterWord) (s : State) :
    (State.drain cs s).phase = s.phase ∧ (State.drain cs s).rd = s.rd ∧ (State.drain cs s).vs = s.vs ∧
    (State.drain cs s).fe = s.fe ∧ (State.drain cs s).status = s.status ∧ (State.drain cs s).cfg = s.cfg ∧
    (State.drain cs s).input = s.input ∧ (State.drain cs s).taking = s.taking ∧
    (State.drain cs s).schedule = s.schedule := by
  induction cs generalizing s with
  | nil => simp [State.drain]
  | cons c cs ih =>
    have := ih (s.takeCluster c)
    simp only [State.drain]
    unfold State.takeCluster at *
    split at this <;> simp_all

/-! ### The end of a module and frame start -/

/-- T8, field by field. -/
theorem endModule_eq (s : State) :
    s.endModule =
      { s with
        phase := .modhdr, q := [], held := none, prev := none, ovf := false, mbuf := [], unrolled := Unrolled.idle
        out := match s.cfg.overlapCheck with
          | .off => s.out
          | .on => if s.ovf = true then s.out ++ [sentinel] else s.out ++ s.mbuf } := by
  obtain ⟨phase, rd, vs, fe, q, out, status, held, prev, ovf, mbuf, cfg, input, taking, schedule, unrolled⟩ := s
  obtain ⟨H, F, oc, cap, lw⟩ := cfg
  cases oc <;> cases ovf <;>
    simp [State.endModule, State.releaseModule, State.clearModule, State.emit, State.emitAll]

theorem startFrame_short {v : Nat} {s : State} (h : v < s.cfg.headerSize + s.cfg.footerSize) :
    s.startFrame v =
      { s with
        phase := .errLen, rd := 0, vs := v, fe := 0, q := [], out := [], status := .invalidLength, held := none
        prev := none, ovf := false, mbuf := [], input := [], unrolled := Unrolled.idle } := by
  simp [State.startFrame, State.raiseError, State.clearModule, h]

theorem startFrame_admitted {v : Nat} {s : State} (h : s.cfg.headerSize + s.cfg.footerSize ≤ v) :
    s.startFrame v =
      { s with
        phase := .hdr, rd := 0, vs := v, fe := v - s.cfg.footerSize, q := [], out := [], status := .none
        held := none, prev := none, ovf := false, mbuf := [], input := [], unrolled := Unrolled.idle } := by
  have : ¬ v < s.cfg.headerSize + s.cfg.footerSize := by omega
  simp [State.startFrame, State.clearModule, this]

end Sys2Proof.Machine
end

