-- ==== Sys2Proof/Laws/PerInstr.lean ====
section
/-!
SUPPORT. One lemma per constructor for each family of LAWS.json: the bits of a well-formed instruction are those of its
row of spec/opcode_table.json.
-/

namespace Sys2Proof.Laws.TableRow

open Sys2Proof

/-- The `mask` and the `match` of an instruction's row, as spec/opcode_table.json has them. -/
def maskAndMatch : Instr → Word64 × Word64
  | .start _ => (0x0000000000000000#64, 0x0000000000000000#64)
  | .hdr _ => (0x0000000000000000#64, 0x0000000000000000#64)
  | .modhdr _ => (0x0000000000000000#64, 0x0000000000000000#64)
  | .modend => (0x0000000000000000#64, 0x0000000000000000#64)
  | .lineCont _ _ => (0x8000000080000000#64, 0x0000000000000000#64)
  | .lineLastHi _ _ => (0x8000000080000000#64, 0x8000000000000000#64)
  | .lineLastLo _ _ => (0x8000000080000000#64, 0x0000000080000000#64)
  | .lineLastBoth _ _ => (0x8000000080000000#64, 0x8000000080000000#64)
  | .modcut => (0x0000000000000000#64, 0x0000000000000000#64)
  | .flush => (0x0000000000000000#64, 0x0000000000000000#64)
  | .ftr _ => (0x0000000000000000#64, 0x0000000000000000#64)
  | .frameEnd => (0x0000000000000000#64, 0x0000000000000000#64)
  | .cwNohit => (0x00000000FFFFFFFF#64, 0x0000000000000000#64)
  | .cwS0 _ _ _ => (0x0000000000070000#64, 0x0000000000000000#64)
  | .cwS1 _ _ _ => (0x0000000000070000#64, 0x0000000000010000#64)
  | .cwS2 _ _ _ => (0x0000000000070000#64, 0x0000000000020000#64)
  | .cwS3 _ _ _ => (0x0000000000070000#64, 0x0000000000030000#64)
  | .cwS4 _ _ _ => (0x0000000000070000#64, 0x0000000000040000#64)
  | .cwS5 _ _ _ => (0x0000000000070000#64, 0x0000000000050000#64)
  | .cwS6 _ _ _ => (0x0000000000070000#64, 0x0000000000060000#64)
  | .cwS7 _ _ _ => (0x0000000000070000#64, 0x0000000000070000#64)
  | .unroll _ => (0x0000000000000000#64, 0x0000000000000000#64)
  | .encodeHit _ _ => (0x0000000000000000#64, 0x0000000000000000#64)
  | .outPair _ _ => (0x8000000000000000#64, 0x0000000000000000#64)
  | .outOdd _ => (0x80000000FFFFFFFF#64, 0x8000000000000000#64)
  | .outSentinel => (0xFFFFFFFFFFFFFFFF#64, 0xFFFFFFFFFFFFFFFF#64)

/-- A well-formed instruction's bits agree with its row's match under its row's mask. -/
def Statement (i : Instr) : Prop :=
  i.wellFormed = true → (encode i).2 &&& (maskAndMatch i).1 = (maskAndMatch i).2

/-- The bits of two halves under a mask of two halves. -/
theorem joinHalves_and (a b m n : BitVec 32) :
    joinHalves a b &&& joinHalves m n = joinHalves (a &&& m) (b &&& n) := BitVec.and_append

/-- The two flag bits of a word, under the mask that the strip lines' rows share. -/
theorem and_flags (hi lo : BitVec 32) :
    joinHalves hi lo &&& 0x8000000080000000#64 =
      joinHalves (if hi.getLsbD 31 then 0x80000000#32 else 0#32) (if lo.getLsbD 31 then 0x80000000#32 else 0#32) := by
  have one (x : BitVec 32) : x &&& 0x80000000#32 = if x.getLsbD 31 then 0x80000000#32 else 0#32 := by
    rw [show (0x80000000#32) = BitVec.twoPow 32 31 from by decide, BitVec.and_twoPow]
  rw [show (0x8000000080000000#64) = joinHalves 0x80000000#32 0x80000000#32 from by decide]
  simp only [joinHalves_and, one]

/-- The shape code of a ClusterWord, under the mask that the shapes' rows share. -/
theorem and_shape (f : BitVec 1) (p : Position) (sh : BitVec 3) (pid : PassthroughId) :
    (clusterWord f p sh pid).setWidth 64 &&& 0x70000#64 = (clusterWord 0#1 0#12 sh 0#16).setWidth 64 := by
  have h : clusterWord f p sh pid &&& clusterWord 0#1 0#12 7#3 0#16 = clusterWord 0#1 0#12 sh 0#16 := by
    have h7 : sh &&& 7#3 = sh := by revert sh; decide
    have e : clusterWord f p sh pid &&& clusterWord 0#1 0#12 7#3 0#16 =
        clusterWord (f &&& 0#1) (p &&& 0#12) (sh &&& 7#3) (pid &&& 0#16) := by
      unfold clusterWord
      rw [← BitVec.and_append, ← BitVec.and_append, ← BitVec.and_append]
    rw [e, h7, BitVec.and_zero, BitVec.and_zero, BitVec.and_zero]
  rw [show (0x70000#64) = (clusterWord 0#1 0#12 7#3 0#16).setWidth 64 from by decide, ← BitVec.setWidth_and, h]

theorem start (v : Nat) : Statement (.start v) := by simp [Statement, maskAndMatch, encode]

theorem hdr (w : Word64) : Statement (.hdr w) := by simp [Statement, maskAndMatch, encode]

theorem modhdr (w : Word64) : Statement (.modhdr w) := by simp [Statement, maskAndMatch, encode]

theorem modend : Statement (.modend) := fun _ => by decide

theorem lineCont (hi : ClusterWord) (lo : ClusterWord) : Statement (.lineCont hi lo) := by
  intro h
  simp only [Instr.wellFormed, Bool.and_eq_true, Bool.not_eq_true'] at h
  simp only [encode, maskAndMatch, and_flags, h]
  decide

theorem lineLastHi (hi : ClusterWord) (lo : ClusterWord) : Statement (.lineLastHi hi lo) := by
  intro h
  simp only [Instr.wellFormed, Bool.and_eq_true, Bool.not_eq_true'] at h
  simp only [encode, maskAndMatch, and_flags, h]
  decide

theorem lineLastLo (hi : ClusterWord) (lo : ClusterWord) : Statement (.lineLastLo hi lo) := by
  intro h
  simp only [Instr.wellFormed, Bool.and_eq_true, Bool.not_eq_true'] at h
  simp only [encode, maskAndMatch, and_flags, h]
  decide

theorem lineLastBoth (hi : ClusterWord) (lo : ClusterWord) : Statement (.lineLastBoth hi lo) := by
  intro h
  simp only [Instr.wellFormed, Bool.and_eq_true] at h
  simp only [encode, maskAndMatch, and_flags, h]
  decide

theorem modcut : Statement (.modcut) := fun _ => by decide

theorem flush : Statement (.flush) := fun _ => by decide

theorem ftr (w : Word64) : Statement (.ftr w) := by simp [Statement, maskAndMatch, encode]

theorem frameEnd : Statement (.frameEnd) := fun _ => by decide

theorem cwNohit : Statement (.cwNohit) := fun _ => by decide

theorem cwS0 (f : BitVec 1) (p : Position) (pid : PassthroughId) : Statement (.cwS0 f p pid) := by
  intro _
  simp only [encode, maskAndMatch, and_shape]
  decide

theorem cwS1 (f : BitVec 1) (p : Position) (pid : PassthroughId) : Statement (.cwS1 f p pid) := by
  intro _
  simp only [encode, maskAndMatch, and_shape]
  decide

theorem cwS2 (f : BitVec 1) (p : Position) (pid : PassthroughId) : Statement (.cwS2 f p pid) := by
  intro _
  simp only [encode, maskAndMatch, and_shape]
  decide

theorem cwS3 (f : BitVec 1) (p : Position) (pid : PassthroughId) : Statement (.cwS3 f p pid) := by
  intro _
  simp only [encode, maskAndMatch, and_shape]
  decide

theorem cwS4 (f : BitVec 1) (p : Position) (pid : PassthroughId) : Statement (.cwS4 f p pid) := by
  intro _
  simp only [encode, maskAndMatch, and_shape]
  decide

theorem cwS5 (f : BitVec 1) (p : Position) (pid : PassthroughId) : Statement (.cwS5 f p pid) := by
  intro _
  simp only [encode, maskAndMatch, and_shape]
  decide

theorem cwS6 (f : BitVec 1) (p : Position) (pid : PassthroughId) : Statement (.cwS6 f p pid) := by
  intro _
  simp only [encode, maskAndMatch, and_shape]
  decide

theorem cwS7 (f : BitVec 1) (p : Position) (pid : PassthroughId) : Statement (.cwS7 f p pid) := by
  intro _
  simp only [encode, maskAndMatch, and_shape]
  decide

theorem unroll (p : Position) : Statement (.unroll p) := by simp [Statement, maskAndMatch, encode]

theorem encodeHit (h : DecodedHit) (last : Bool) : Statement (.encodeHit h last) := by simp [Statement, maskAndMatch, encode]

theorem outPair (a : Record) (b : Record) : Statement (.outPair a b) := by
  intro h
  simp only [Instr.wellFormed, Bool.not_eq_true'] at h
  simp only [encode, maskAndMatch]
  rw [show (0x8000000000000000#64) = joinHalves 0x80000000#32 0#32 from by decide]
  have : a &&& 0x80000000#32 = 0#32 := by
    rw [show (0x80000000#32) = BitVec.twoPow 32 31 from by decide, BitVec.and_twoPow, h]; rfl
  rw [joinHalves_and, this, BitVec.and_zero]
  decide

theorem outOdd (r : Record) : Statement (.outOdd r) := by
  intro h
  simp only [Instr.wellFormed] at h
  simp only [encode, maskAndMatch]
  rw [show (0x80000000FFFFFFFF#64) = joinHalves 0x80000000#32 0xFFFFFFFF#32 from by decide]
  have : r &&& 0x80000000#32 = 0x80000000#32 := by
    rw [show (0x80000000#32) = BitVec.twoPow 32 31 from by decide, BitVec.and_twoPow, h]; rfl
  rw [joinHalves_and, this, BitVec.zero_and]
  decide

theorem outSentinel : Statement (.outSentinel) := fun _ => by decide

end Sys2Proof.Laws.TableRow
end

