-- ==== Sys2Proof/Laws/Step.lean ====
section
/-!
SUPPORT. What a step can do, said once: the transitions of spec/40_frame_parser.md R113 as one relation, and the
inversion of `step` into it. Proofs about every step go by cases on the relation.
-/

namespace Sys2Proof.Machine

open Host (Outcome)

/-! ### Decoding what a step selects -/

theorem decode_half (c : ClusterWord) : decode .half (c.setWidth 64) = .ok (decodeHalf c) := by
  have h : c.toNat < 2 ^ 32 := c.isLt
  have h2 : (c.setWidth 64).toNat < 2 ^ 32 := by simp [BitVec.toNat_setWidth]; omega
  simp only [decode, h2, if_true]
  congr 2
  apply BitVec.eq_of_toNat_eq
  simp

theorem readWord_run {slot slot' : Slot} {w : Word64} {s : State} (h : readWord slot s = .run slot' w) :
    slot' = slot ∧ s.input[s.rd]? = some w := by
  unfold readWord at h
  split at h
  · rename_i v hv; cases h; exact ⟨rfl, hv⟩
  · cases h

theorem inRegion_cases {limit : Nat} {slot : Slot} {atEnd m : Move} {s : State} (h : inRegion limit slot atEnd s = m) :
    (s.rd < limit ∧ readWord slot s = m) ∨ (s.rd = limit ∧ atEnd = m) ∨ (limit < s.rd ∧ m = .stuck) := by
  unfold inRegion at h
  split at h
  · exact .inl ⟨‹_›, h⟩
  · split at h
    · exact .inr (.inl ⟨‹_›, h⟩)
    · exact .inr (.inr ⟨by omega, h.symm⟩)

/-- What `exec` does on a queued ClusterWord's row is T7 on it (40_frame_parser.md R113). -/
theorem exec_decodeHalf {c : ClusterWord} {cs : List ClusterWord} {s : State} (hp : s.phase = .flush)
    (hq : s.q = c :: cs) : exec (decodeHalf c) s = .next (s.takeCluster c) := by
  unfold decodeHalf State.takeCluster
  split
  · rename_i h
    simp [exec, execCwNohit, hp, hq, h]
  · have hstep : ∀ hs, clusterStep hs s = .next (s.takeHits hs) := by
      intro hs; simp [clusterStep, hp, hq]
    unfold decodeOne decodeShape
    generalize clusterShape c = sh
    have h8 : ∀ x : BitVec 3, x = 0#3 ∨ x = 1#3 ∨ x = 2#3 ∨ x = 3#3 ∨ x = 4#3 ∨ x = 5#3 ∨ x = 6#3 ∨ x = 7#3 := by
      decide
    rcases h8 sh with rfl | rfl | rfl | rfl | rfl | rfl | rfl | rfl <;> exact hstep _

/-- What `exec` does on a strip line's row. -/
theorem exec_decodeLine {w : Word64} {s : State} (hp : s.phase = .strip) (hr : s.rd < s.fe) :
    exec (decodeLine w) s =
      .next (if lineLast w then (s.queueLine (upperHalf w) (lowerHalf w)).endLine
             else s.queueLine (upperHalf w) (lowerHalf w)) := by
  have hl : lineLast w = (w.getLsbD 63 || w.getLsbD 31) := by
    simp only [lineLast, halfFlag, upperHalf_flag, lowerHalf_flag]
  unfold decodeLine
  rw [hl]
  cases w.getLsbD 63 <;> cases w.getLsbD 31 <;>
    simp [exec, execLineCont, execLineLastHi, execLineLastLo, execLineLastBoth, hp, hr]

/-! ### The transitions -/

/-- The transitions T1 to T10 of 40_frame_parser.md R113, as effects on the state; T0 is START's, which the host fires. -/
inductive Fires (s : State) : State → Prop
  | t1 (w : Word64) (hp : s.phase = .hdr) (hr : s.rd < s.cfg.headerSize) (hw : s.input[s.rd]? = some w) :
      Fires s (s.emit w).consume
  | t2 (hp : s.phase = .hdr) (hr : s.rd = s.cfg.headerSize) : Fires s s.leaveHeader
  | t3 (w : Word64) (hp : s.phase = .modhdr) (hr : s.rd < s.fe) (hw : s.input[s.rd]? = some w) :
      Fires s ({ (s.emit w).consume with q := [] }.goto .strip)
  | t4 (hp : s.phase = .modhdr) (hr : s.rd = s.fe) : Fires s (s.goto .ftr)
  | t5 (w : Word64) (hp : s.phase = .strip) (hr : s.rd < s.fe) (hw : s.input[s.rd]? = some w) :
      Fires s (if lineLast w then (s.queueLine (upperHalf w) (lowerHalf w)).endLine
               else s.queueLine (upperHalf w) (lowerHalf w))
  | t6 (hp : s.phase = .strip) (hr : s.rd = s.fe) : Fires s s.enterFlush
  | t7 (c : ClusterWord) (cs : List ClusterWord) (hp : s.phase = .flush) (hq : s.q = c :: cs) :
      Fires s (s.takeCluster c)
  | t8 (hp : s.phase = .flush) (hq : s.q = []) : Fires s s.endModule
  | t9 (w : Word64) (hp : s.phase = .ftr) (hr : s.rd < s.vs) (hw : s.input[s.rd]? = some w) :
      Fires s (s.emit w).consume
  | t10 (hp : s.phase = .ftr) (hr : s.rd = s.vs) : Fires s ({ s with status := .ok }.goto .done)

/-- Every move that runs an instruction decodes. It is START on a frame that the host presents, or one of R113's
transitions, and answers that transition's state. -/
theorem run_fires {slot : Slot} {w : Word64} {s : State} (h : nextMove s = .run slot w) :
    (∃ v, slot = .frameStart v ∧ w = 0#64) ∨
    (∃ i t, decode slot w = .ok i ∧ exec i s.clock = .next t ∧ Fires s.clock t) := by
  have hfetch : (∃ v, slot = .frameStart v ∧ w = 0#64) ∨ fetch s = .run slot w := by
    unfold nextMove at h
    split at h
    · rename_i a _ _
      cases a with
      | present v => simp only [actMove, Move.run.injEq] at h; exact .inl ⟨v, h.1.symm, h.2.symm⟩
      | give i => simp [actMove] at h
    · exact .inr h
    · exact .inr h
  rcases hfetch with hs | hf
  · exact .inl hs
  · right
    unfold fetch at hf
    split at hf
    · cases hf
    · rename_i hp
      rcases inRegion_cases hf with ⟨hr, hw⟩ | ⟨hr, hw⟩ | ⟨_, hw⟩
      · obtain ⟨rfl, hw⟩ := readWord_run hw
        exact ⟨.hdr w, _, rfl, by simp [exec, execHdr, hp, hr], .t1 w (by simpa) (by simpa) (by simpa)⟩
      · cases hw
      · cases hw
    · rename_i hp
      rcases inRegion_cases hf with ⟨hr, hw⟩ | ⟨hr, hw⟩ | ⟨_, hw⟩
      · obtain ⟨rfl, hw⟩ := readWord_run hw
        exact ⟨.modhdr w, _, rfl, by simp [exec, execModhdr, hp, hr], .t3 w (by simpa) (by simpa) (by simpa)⟩
      · cases hw
        exact ⟨.modend, _, by simp [decode, decodeNoWord],
          by simp [exec, execModend, hp, hr], .t4 (by simpa) (by simpa)⟩
      · cases hw
    · rename_i hp
      rcases inRegion_cases hf with ⟨hr, hw⟩ | ⟨hr, hw⟩ | ⟨_, hw⟩
      · obtain ⟨rfl, hw⟩ := readWord_run hw
        exact ⟨decodeLine w, _, rfl,
          exec_decodeLine (by simpa) (by simpa), .t5 w (by simpa) (by simpa) (by simpa)⟩
      · cases hw
        exact ⟨.modcut, _, by simp [decode, decodeNoWord],
          by simp [exec, execModcut, hp, hr], .t6 (by simpa) (by simpa)⟩
      · cases hw
    · rename_i hp
      split at hf
      · rename_i c cs hq
        cases hf
        exact ⟨decodeHalf c, _, decode_half c,
          exec_decodeHalf (cs := cs) (by simpa) (by simpa), .t7 c cs (by simpa) (by simpa)⟩
      · rename_i hq
        split at hf
        · rename_i ho
          cases hf
          refine ⟨.outSentinel, _, rfl, by simp [exec, execOutSentinel, hp, hq, ho], .t8 (by simpa) (by simpa)⟩
        · cases hf
          refine ⟨.flush, _, by simp [decode, decodeNoWord], ?_, .t8 (by simpa) (by simpa)⟩
          simp [exec, execFlush, hp, hq, State.drain]
    · rename_i hp
      rcases inRegion_cases hf with ⟨hr, hw⟩ | ⟨hr, hw⟩ | ⟨_, hw⟩
      · obtain ⟨rfl, hw⟩ := readWord_run hw
        exact ⟨.ftr w, _, rfl, by simp [exec, execFtr, hp, hr], .t9 w (by simpa) (by simpa) (by simpa)⟩
      · cases hw
        exact ⟨.frameEnd, _, by simp [decode, decodeNoWord],
          by simp [exec, execFrameEnd, hp, hr], .t10 (by simpa) (by simpa)⟩
      · cases hw
    · cases hf
    · cases hf
    · cases hf

/-- The inversion of `step`: where it answers a next state, the machine has waited (for a word, a frame or
a host that takes none), started the frame that the host
presents, fired a transition, or taken another act of the host. -/
theorem step_next {s t : State} (h : step s = .next t) :
    (t = s.clock ∧ (nextMove s = .wait ∨ s.taking = false)) ∨
    (∃ v, nextMove s = .run (.frameStart v) 0#64 ∧ s.phase.presentable = true ∧ lengthFits s.cfg v = true ∧
      t = s.clock.startFrame v) ∨
    Fires s.clock t ∨
    ∃ i, nextMove s = .host i ∧ hostInput i s.clock = .next t := by
  unfold step at h
  split at h
  · rename_i slot bits hm
    rcases run_fires hm with ⟨v, rfl, rfl⟩ | ⟨i, u, hd, hu, hf⟩
    · simp only [decode, decodeNoWord, if_true, exec, execStart, State.clock_phase, State.clock_cfg] at h
      split at h
      · cases h
      · split at h
        · cases h
        · rename_i hp hl
          simp only [holdBack] at h
          split at h
          · rename_i hb
            exact .inl ⟨by simpa using h.symm, .inr (by simpa using hb.1)⟩
          · exact .inr (.inl ⟨v, hm, by simpa using hp, by simpa using hl, by simpa using h.symm⟩)
    · simp only [hd, hu, holdBack] at h
      split at h
      · rename_i hb
        exact .inl ⟨by simpa using h.symm, .inr (by simpa using hb.1)⟩
      · obtain rfl : u = t := by simpa using h
        exact .inr (.inr (.inl hf))
  · rename_i hm
    have hf : fetch s = .headerEnd := by
      unfold nextMove at hm
      split at hm
      · rename_i a _ _; cases a <;> simp [actMove] at hm
      · exact hm
      · exact hm
    obtain rfl : s.clock.leaveHeader = t := by simpa using h
    have hr : ∀ slot s', readWord slot s' ≠ .headerEnd := by
      intro slot s' hh; unfold readWord at hh; split at hh <;> cases hh
    unfold fetch at hf
    split at hf
    all_goals first
      | cases hf
      | (rename_i hp
         rcases inRegion_cases hf with ⟨_, hw⟩ | ⟨hr', hw⟩ | ⟨_, hw⟩ <;>
           first | exact absurd hw (hr _ _) | exact .inr (.inr (.inl (.t2 (by simpa) (by simpa)))) | cases hw)
      | (split at hf <;> first | cases hf | (split at hf <;> cases hf))
  · rename_i i hm
    exact .inr (.inr (.inr ⟨i, hm, h⟩))
  · rename_i hm
    exact .inl ⟨by simpa using h.symm, .inl hm⟩
  · cases h

end Sys2Proof.Machine
end

