-- ==== Sys2Proof/Laws/Stream.lean ====
section
/-!
SUPPORT. The streaming machine on lists: what accepting a ClusterWord's hits, and then a whole queue, does to the held
record, the packed words and the overlap flag (spec/43_encoder_packer.md R188, 44_overlap_check.md R216).
-/

namespace Sys2Proof.Machine

/-- The records of one ClusterWord's hits; `fin` says that the module's final hit is among them. -/
def hitRecords : List DecodedHit → Bool → List Record
  | [], _ => []
  | h :: hs, fin => encodeRecord h (fin && hs.isEmpty) :: hitRecords hs fin

/-- `PackerAccept` on a list of records: the record left held and the words that leave. -/
def streamPack : Option Record → List Record → Option Record × List Word64
  | held, [] => (held, [])
  | held, r :: rs =>
    ((streamPack (packerStep held r).1 rs).1, (packerStep held r).2 ++ (streamPack (packerStep held r).1 rs).2)

/-- Whether `OverlapTrack` sees an overlap along a list of hits, with the hit before it. -/
def trackFrom (oc : OverlapCheck) : Option DecodedHit → List DecodedHit → Bool
  | _, [] => false
  | prev, h :: hs => (match oc, prev with
    | .on, some g => hitsOverlap g h
    | .on, none => false
    | .off, _ => false) || trackFrom oc (some h) hs

/-- With the check off the packed words go to `out`, with it on to `mbuf`; the other is kept. -/
theorem acceptHits_grow (hs : List DecodedHit) (fin : Bool) (s : State) :
    (s.cfg.overlapCheck = .off →
      (∃ ws, (State.acceptHits hs fin s).out = s.out ++ ws) ∧ (State.acceptHits hs fin s).mbuf = s.mbuf ∧
        (State.acceptHits hs fin s).ovf = s.ovf) ∧
    (s.cfg.overlapCheck = .on →
      (∃ ws, (State.acceptHits hs fin s).mbuf = s.mbuf ++ ws) ∧ (State.acceptHits hs fin s).out = s.out) := by
  induction hs generalizing s with
  | nil => simp [State.acceptHits]
  | cons h hs ih =>
    have ih := ih ((s.overlapTrack h).encodeAndPack h (fin && hs.isEmpty))
    simp only [State.acceptHits]
    constructor
    · intro ho
      obtain ⟨⟨ws, h1⟩, h2, h3⟩ := ih.1 (by simpa using ho)
      rw [h1, h2, h3]
      rw [encodeAndPack_eq, packerAccept_eq]
      simp [State.withPacked, State.packed, ho, State.overlapTrack]
    · intro ho
      obtain ⟨⟨ws, h1⟩, h2⟩ := ih.2 (by simpa using ho)
      rw [h1, h2]
      rw [encodeAndPack_eq, packerAccept_eq]
      simp [State.withPacked, State.packed, ho, State.overlapTrack]

/-- Accepting hits, in full: the held record, the packed words, the overlap flag and the last hit. -/
theorem acceptHits_spec (hs : List DecodedHit) (fin : Bool) (s : State) :
    (State.acceptHits hs fin s).held = (streamPack s.held (hitRecords hs fin)).1 ∧
    (State.acceptHits hs fin s).packed = s.packed ++ (streamPack s.held (hitRecords hs fin)).2 ∧
    (State.acceptHits hs fin s).ovf = (s.ovf || trackFrom s.cfg.overlapCheck s.prev hs) ∧
    (State.acceptHits hs fin s).prev = (hs.getLast?.or s.prev) := by
  induction hs generalizing s with
  | nil => simp [State.acceptHits, hitRecords, streamPack, trackFrom]
  | cons h hs ih =>
    obtain ⟨h1, h2, h3, h4⟩ := ih ((s.overlapTrack h).encodeAndPack h (fin && hs.isEmpty))
    simp only [State.acceptHits, h1, h2, h3, h4]
    have e1 : ((s.overlapTrack h).encodeAndPack h (fin && hs.isEmpty)).held =
        (packerStep s.held (encodeRecord h (fin && hs.isEmpty))).1 := by
      rw [encodeAndPack_eq, packerAccept_eq]; simp
    have e2 : ((s.overlapTrack h).encodeAndPack h (fin && hs.isEmpty)).packed =
        s.packed ++ (packerStep s.held (encodeRecord h (fin && hs.isEmpty))).2 := by
      rw [encodeAndPack_eq, packerAccept_eq]; simp; rfl
    refine ⟨by rw [e1]; rfl, by rw [e1, e2]; simp [hitRecords, streamPack], ?_, ?_⟩
    · cases ho : s.cfg.overlapCheck <;> cases hp : s.prev <;>
        simp [trackFrom, State.overlapTrack, ho, hp, Bool.or_assoc]
    · cases hs <;> simp [State.overlapTrack, List.getLast?_cons_cons]
      rw [List.getLast?_eq_some_getLast (List.cons_ne_nil _ _)]; simp

theorem streamPack_append (held : Option Record) (a b : List Record) :
    streamPack held (a ++ b) =
      ((streamPack (streamPack held a).1 b).1, (streamPack held a).2 ++ (streamPack (streamPack held a).1 b).2) := by
  induction a generalizing held with
  | nil => simp [streamPack]
  | cons r rs ih => simp [streamPack, ih]

theorem moduleRecords_cons (h : DecodedHit) (t : List DecodedHit) :
    moduleRecords (h :: t) = encodeRecord h t.isEmpty :: moduleRecords t := by
  cases t <;> simp [moduleRecords]

theorem moduleRecords_append (hs hs' : List DecodedHit) :
    moduleRecords (hs ++ hs') = hitRecords hs hs'.isEmpty ++ moduleRecords hs' := by
  induction hs with
  | nil => simp [hitRecords]
  | cons h hs ih =>
    simp only [List.cons_append, moduleRecords_cons, ih, hitRecords]
    congr 2; cases hs <;> cases hs' <;> simp

theorem trackFrom_append (oc) (prev : Option DecodedHit) (a b : List DecodedHit) :
    trackFrom oc prev (a ++ b) = (trackFrom oc prev a || trackFrom oc (a.getLast?.or prev) b) := by
  induction a generalizing prev with
  | nil => simp [trackFrom]
  | cons h hs ih =>
    simp only [List.cons_append, trackFrom, ih, Bool.or_assoc]
    congr 3
    cases hs <;> simp [List.getLast?_cons_cons]
    rw [List.getLast?_eq_some_getLast (List.cons_ne_nil _ _)]; simp

theorem decodeOne_ne (c : ClusterWord) : decodeOne c ≠ [] := by
  unfold decodeOne expandEntry; split <;> simp

/-- Draining a queue, in full. -/
theorem drain_spec (cs : List ClusterWord) : ∀ s : State, s.q = cs → (∀ c ∈ cs, c ≠ 0#32) →
    (State.drain cs s).packed = s.packed ++ (streamPack s.held (moduleRecords (decodeQueue cs))).2 ∧
    (State.drain cs s).ovf = (s.ovf || trackFrom s.cfg.overlapCheck s.prev (decodeQueue cs)) ∧
    (s.cfg.overlapCheck = .on → (State.drain cs s).out = s.out) ∧
    (s.cfg.overlapCheck = .off → (State.drain cs s).mbuf = s.mbuf) := by
  induction cs with
  | nil => intro s _ _; simp [State.drain, decodeQueue, moduleRecords, streamPack, trackFrom]
  | cons c cs ih =>
    intro s hq hnz
    have hc : c ≠ 0#32 := hnz c (by simp)
    simp only [State.drain, takeCluster_nonzero hc]
    obtain ⟨h1, h2, h3, h4⟩ := ih (s.takeHits (decodeOne c)) (by simp [hq]) (fun x hx => hnz x (by simp [hx]))
    have hfin : (decodeQueue cs).isEmpty = cs.isEmpty := by
      cases cs with
      | nil => rfl
      | cons d ds => simp [decodeQueue, decodeOne_ne]
    obtain ⟨a1, a2, a3, a4⟩ := acceptHits_spec (decodeOne c) cs.isEmpty s.popCluster
    have et : s.takeHits (decodeOne c) = s.popCluster.acceptHits (decodeOne c) cs.isEmpty := by
      simp [State.takeHits, hq]
    have g := acceptHits_grow (decodeOne c) cs.isEmpty s.popCluster
    have hcfg : (s.takeHits (decodeOne c)).cfg = s.cfg := by simp
    rw [et] at h1 h2 h3 h4 hcfg ⊢
    have hD : decodeQueue (c :: cs) = decodeOne c ++ decodeQueue cs := by simp [decodeQueue]
    have pk : s.popCluster.packed = s.packed := rfl
    refine ⟨?_, ?_, ?_, ?_⟩
    · rw [h1, a1, a2, hD, moduleRecords_append, streamPack_append, hfin, pk]; simp
    · rw [h2, a3, a4, hD, trackFrom_append]; simp [Bool.or_assoc]
    · intro ho; rw [h3 (by simpa using ho), (g.2 ho).2]; simp
    · intro ho; rw [h4 (by simpa using ho), (g.1 ho).2.1]; simp

/-- Packing a module's records one by one gives its plain output. -/
theorem streamPack_module (hs : List DecodedHit) : (streamPack none (moduleRecords hs)).2 = plainOutput hs := by
  unfold plainOutput
  have key : ∀ n, ∀ hs : List DecodedHit, hs.length ≤ n →
      (streamPack none (moduleRecords hs)).2 = packRecords (moduleRecords hs) := by
    intro n
    induction n with
    | zero => intro hs hl; obtain rfl := List.length_eq_zero_iff.mp (Nat.le_zero.mp hl); rfl
    | succ n ih =>
      intro hs hl
      match hs with
      | [] => rfl
      | [h] => simp [moduleRecords, packRecords, streamPack, packerStep]
      | [h, h'] => simp [moduleRecords, packRecords, streamPack, packerStep]
      | h :: h' :: h'' :: hs =>
        have := ih (h'' :: hs) (by simp at hl ⊢; omega)
        simp [moduleRecords, packRecords, streamPack, packerStep, this]
  exact key _ hs le_rfl

theorem trackFrom_on (g : DecodedHit) (hs : List DecodedHit) : trackFrom .on (some g) hs = overlaps (g :: hs) := by
  induction hs generalizing g with
  | nil => rfl
  | cons h hs ih => simp [trackFrom, overlaps, ih]

theorem trackFrom_none (hs : List DecodedHit) : trackFrom .on none hs = overlaps hs := by
  cases hs with
  | nil => rfl
  | cons h hs => simp [trackFrom, trackFrom_on]

theorem trackFrom_off (p) (hs : List DecodedHit) : trackFrom .off p hs = false := by
  induction hs generalizing p with
  | nil => rfl
  | cons h hs ih => simp [trackFrom, ih]

end Sys2Proof.Machine
end

