-- ==== Sys2Proof/Tests/Slice0.lean ====
section
/-!
SUPPORT. The model's own tests,
  expected values from the vectors of spec/95_test_vectors.md (each test names its vector),
and one witness for the hypotheses of each statement. Every test is about one step, one function or one whole-frame
result of the spec's functional definition.
-/

namespace Sys2Proof.Tests

open Sys2Proof Sys2Proof.Machine

/-! ### Helpers -/

/-- The next state of an instruction, if it answers one. -/
def after (i : Instr) (s : State) : Option State :=
  match exec i s with
  | .next t => some t
  | .fault _ => none
  | .refused _ => none

/-- The next state of a step, if it answers one. -/
def afterStep (s : State) : Option State :=
  match step s with
  | .next t => some t
  | .fault _ => none
  | .refused _ => none

/-- The refusal of an instruction, if it answers one. -/
def refusal (i : Instr) (s : State) : Option Refusal :=
  match exec i s with
  | .next _ => none
  | .fault _ => none
  | .refused r => some r

/-- The refusal of a step, if it answers one. -/
def stepRefusal (s : State) : Option Refusal :=
  match step s with
  | .next _ => none
  | .fault _ => none
  | .refused r => some r

/-- What a slot's bits decode to. -/
def decoded (slot : Slot) (w : Word64) : Option Instr :=
  match decode slot w with
  | .ok i => some i
  | .error _ => none

/-- Why a slot's bits do not decode. -/
def rejected (slot : Slot) (w : Word64) : Option DecodeError :=
  match decode slot w with
  | .ok _ => none
  | .error e => some e

def cfgOf (h f : Nat) (oc : OverlapCheck := .off) (cap lw : Option Nat := none) : Cfg :=
  { headerSize := h, footerSize := f, overlapCheck := oc, queueCapacity := cap, lenWidth := lw }

/-- A state inside WX-1's frame: `H = F = 3`, `vs = 8`, `fe = 5`. -/
def inFrame (p : Phase) (rd : Nat) (q : List ClusterWord := []) (oc : OverlapCheck := .off)
    (cap lw : Option Nat := none) : State :=
  { State.reset with phase := p, rd := rd, vs := 8, fe := 5, q := q, cfg := cfgOf 3 3 oc cap lw }

/-- Phase FLUSH of that frame, with the given queue. -/
def draining (q : List ClusterWord) (oc : OverlapCheck := .off) : State := inFrame .flush 5 q oc

/-- A state with one act of the host due. -/
def withAct (a : HostAct) (s : State) : State := { s with schedule := [⟨0, a⟩] }

/-! ### WellFormed: an ill-formed term for each check -/

theorem test_wellFormed_lineCont_hi : (Instr.lineCont 0x80000000#32 0#32).wellFormed = false := by decide
theorem test_wellFormed_lineCont_lo : (Instr.lineCont 0#32 0x80000000#32).wellFormed = false := by decide
theorem test_wellFormed_lineLastHi_hi : (Instr.lineLastHi 0#32 0#32).wellFormed = false := by decide
theorem test_wellFormed_lineLastHi_lo : (Instr.lineLastHi 0x80000000#32 0x80000000#32).wellFormed = false := by decide
theorem test_wellFormed_lineLastLo_hi : (Instr.lineLastLo 0x80000000#32 0x80000000#32).wellFormed = false := by decide
theorem test_wellFormed_lineLastLo_lo : (Instr.lineLastLo 0#32 0#32).wellFormed = false := by decide
theorem test_wellFormed_lineLastBoth_hi : (Instr.lineLastBoth 0#32 0x80000000#32).wellFormed = false := by decide
theorem test_wellFormed_lineLastBoth_lo : (Instr.lineLastBoth 0x80000000#32 0#32).wellFormed = false := by decide
theorem test_wellFormed_cwS0_nohit : (Instr.cwS0 0#1 0#12 0#16).wellFormed = false := by decide
theorem test_wellFormed_hit_size0 : (Instr.encodeHit ⟨0#12, 0#3, 0#16⟩ false).wellFormed = false := by decide
theorem test_wellFormed_hit_size5 : (Instr.encodeHit ⟨0#12, 5#3, 0#16⟩ false).wellFormed = false := by decide
theorem test_wellFormed_outPair : (Instr.outPair 0x80000000#32 0#32).wellFormed = false := by decide
theorem test_wellFormed_outOdd : (Instr.outOdd 0#32).wellFormed = false := by decide

/-! ### Decode: words written out bit by bit from the formats of 30_encoding.md -/

/-- WX-1's first words, in the slots that the index selects. -/
theorem test_decode_hdr : decoded .header 0xAAAA000000000001#64 = some (.hdr 0xAAAA000000000001#64) := by decide
theorem test_decode_modhdr : decoded .moduleHeader 0xBBBB000000000001#64 = some (.modhdr 0xBBBB000000000001#64) := by
  decide
theorem test_decode_ftr : decoded .footer 0xCCCC000000000003#64 = some (.ftr 0xCCCC000000000003#64) := by decide
theorem test_decode_start : decoded (.frameStart 8) 0#64 = some (.start 8) := by decide
theorem test_decode_modend : decoded .regionEnd 0#64 = some .modend := by decide
theorem test_decode_modcut : decoded .regionCut 0#64 = some .modcut := by decide
theorem test_decode_flush : decoded .moduleEnd 0#64 = some .flush := by decide
theorem test_decode_frameEnd : decoded .frameEnd 0#64 = some .frameEnd := by decide
/-- P2, index 2. -/
theorem test_decode_lineCont :
    decoded .stripLine 0x03F31111082D2222#64 = some (.lineCont 0x03F31111#32 0x082D2222#32) := by decide
/-- WX-1, index 4: bit 63 alone. -/
theorem test_decode_lineLastHi :
    decoded .stripLine
      0b1000000000101000000000001010101100000000000000000000000000000000#64 =
      some (.lineLastHi 0x802800AB#32 0#32) := by decide
/-- P2, index 5: bit 31 alone. -/
theorem test_decode_lineLastLo :
    decoded .stripLine 0x0000000090014444#64 = some (.lineLastLo 0#32 0x90014444#32) := by decide
/-- FR-3, index 4: both bits. -/
theorem test_decode_lineLastBoth :
    decoded .stripLine 0x8000000080000000#64 = some (.lineLastBoth 0x80000000#32 0x80000000#32) := by decide
theorem test_decode_cwNohit : decoded .half 0#64 = some .cwNohit := by decide
/-- DC-0, bit by bit: flag 0, position 0x105, shape 0, id 0x1234. -/
theorem test_decode_cwS0 :
    decoded .half 0b0000100000101000_0001001000110100#64 = some (.cwS0 0#1 0x105#12 0x1234#16) := by decide
/-- DC-F: the flag-only half is a ClusterWord of shape 0. -/
theorem test_decode_cwS0_flag : decoded .half 0x80000000#64 = some (.cwS0 1#1 0#12 0#16) := by decide
theorem test_decode_cwS1 : decoded .half 0x08291234#64 = some (.cwS1 0#1 0x105#12 0x1234#16) := by decide
theorem test_decode_cwS2 : decoded .half 0x082A1234#64 = some (.cwS2 0#1 0x105#12 0x1234#16) := by decide
theorem test_decode_cwS3 : decoded .half 0x082B1234#64 = some (.cwS3 0#1 0x105#12 0x1234#16) := by decide
theorem test_decode_cwS4 : decoded .half 0x082C1234#64 = some (.cwS4 0#1 0x105#12 0x1234#16) := by decide
theorem test_decode_cwS5 : decoded .half 0x082D1234#64 = some (.cwS5 0#1 0x105#12 0x1234#16) := by decide
theorem test_decode_cwS6 : decoded .half 0x082E1234#64 = some (.cwS6 0#1 0x105#12 0x1234#16) := by decide
/-- DC-M: every field at its maximum. -/
theorem test_decode_cwS7 : decoded .half 0xFFFFFFFF#64 = some (.cwS7 1#1 0xFFF#12 0xFFFF#16) := by decide
theorem test_decode_unroll : decoded .position 0xF7F#64 = some (.unroll 0xF7F#12) := by decide
/-- EN-9, bit by bit: last 1, row 1, nStrips 2, stripIndex 1920, id 0xABCD. -/
theorem test_decode_record :
    decoded .record 0b11100111100000001010101111001101#64 = some (.encodeHit ⟨0xF80#12, 2#3, 0xABCD#16⟩ true) := by
  decide
/-- EN-4: `nStrips = 0` stands for size 4. -/
theorem test_decode_record_size4 :
    decoded .record 0x00851234#64 = some (.encodeHit ⟨0x105#12, 4#3, 0x1234#16⟩ false) := by decide
/-- PK-3. -/
theorem test_decode_outPair :
    decoded .packed 0x1085123410881234#64 = some (.outPair 0x10851234#32 0x10881234#32) := by decide
theorem test_decode_outOdd : decoded .packed 0xC07F567800000000#64 = some (.outOdd 0xC07F5678#32) := by decide
theorem test_decode_outSentinel : decoded .packed 0xFFFFFFFFFFFFFFFF#64 = some .outSentinel := by decide
/-- The named rejections. -/
theorem test_reject_wordWhereNoneIsRead : rejected .regionEnd 1#64 = some .wordWhereNoneIsRead := by decide
theorem test_reject_widerThanFormat : rejected .position 0x1000#64 = some .widerThanFormat := by decide
theorem test_reject_stripIndexOutOfRange : rejected .record 0x08000000#64 = some .stripIndexOutOfRange := by decide
theorem test_reject_notAnOutputWord : rejected .packed 0x8000000000000001#64 = some .notAnOutputWord := by decide

/-! ### The host's question -/

theorem test_tableWord_lines :
    decodeTableWord 64 0x8000000080000000 = some (.lineLastBoth 0x80000000#32 0x80000000#32) := by decide
theorem test_tableWord_cluster : decodeTableWord 32 0x00050000 = some (.cwS5 0#1 0#12 0#16) := by decide
theorem test_tableWord_position : decodeTableWord 16 0 = some (.unroll 0#12) := by decide
/-- The very next step runs the placed strip line: its nonzero half is queued and the module ends. -/
theorem test_withFetchWord_line :
    (afterStep (State.reset.withFetchWord 64 0x802800AB00000000)).map (fun t => (t.q, t.phase)) =
      some ([0x802800AB#32], .flush) := by decide
/-- And the placed ClusterWord: DC-4, final, so its record leaves at once. -/
theorem test_withFetchWord_cluster :
    (afterStep (State.reset.withFetchWord 32 0x082C1234)).map (·.out) = some [0xA085123400000000#64] := by decide

/-! ### One step of each row -/

/-- P1, step 1. -/
theorem test_start : (after (.start 8) { State.reset with cfg := cfgOf 3 3 }).map
    (fun t => (t.phase, t.rd, t.vs, t.fe, t.status)) = some (.hdr, 0, 8, 5, .none) := by decide
/-- EX-1 and P5. -/
theorem test_start_short : (after (.start 3) { State.reset with cfg := cfgOf 2 2, out := [1#64], rd := 7 }).map
    (fun t => ((t.phase, t.status, t.out), t.rd, t.vs, t.fe)) = some ((.errLen, .invalidLength, []), 0, 3, 0) := by
  decide
theorem test_hdr : (after (.hdr 0xAAAA000000000001#64) (inFrame .hdr 0)).map (fun t => (t.out, t.rd, t.phase)) =
    some ([0xAAAA000000000001#64], 1, .hdr) := by decide
theorem test_hdr_complete : refusal (.hdr 1#64) (inFrame .hdr 3) = some .notEnabled := by decide
/-- P1, step 6. -/
theorem test_modhdr : (after (.modhdr 0xBBBB000000000001#64) (inFrame .modhdr 3)).map (fun t => (t.out, t.rd,
    t.phase)) =
    some ([0xBBBB000000000001#64], 4, .strip) := by decide
theorem test_modhdr_end : refusal (.modhdr 1#64) (inFrame .modhdr 5) = some .notEnabled := by decide
/-- P1, step 10. -/
theorem test_modend : (after .modend (inFrame .modhdr 5)).map (fun t => (t.phase, t.rd)) = some (.ftr, 5) := by decide
/-- P2, index 2: both halves, upper first. -/
theorem test_lineCont : (after (.lineCont 0x03F31111#32 0x082D2222#32) (inFrame .strip 4)).map
    (fun t => (t.q, t.rd, t.phase)) = some ([0x03F31111#32, 0x082D2222#32], 5, .strip) := by decide
/-- FR-3: an all-zero line pushes nothing and continues. -/
theorem test_lineCont_zero : (after (.lineCont 0#32 0#32) (inFrame .strip 4)).map (fun t => (t.q, t.rd, t.phase)) =
    some ([], 5, .strip) := by decide
/-- P1, step 7. -/
theorem test_lineLastHi : (after (.lineLastHi 0x802800AB#32 0#32) (inFrame .strip 4)).map
    (fun t => (t.q, t.rd, t.phase, t.out)) = some ([0x802800AB#32], 5, .flush, []) := by decide
/-- EX-3: capacity 0, the flag-only half is the first push and overflows. -/
theorem test_lineLastHi_overflow :
    (after (.lineLastHi 0x80000000#32 0#32) (inFrame .strip 4 [] .off (some 0))).map
      (fun t => (t.q, t.rd, t.phase, t.status)) = some ([], 5, .fault, .queueOverflow) := by decide
/-- P2, index 5. -/
theorem test_lineLastLo : (after (.lineLastLo 0#32 0x90014444#32) (inFrame .strip 4 [5#32])).map
    (fun t => (t.q, t.phase)) = some ([5#32, 0x90014444#32], .flush) := by decide
/-- P6 with one place left: the upper half is queued and the lower one overflows. -/
theorem test_lineLastLo_overflow :
    (after (.lineLastLo 2#32 0x80000003#32) (inFrame .strip 4 [1#32] .off (some 2))).map
      (fun t => (t.q, t.phase, t.status)) = some ([1#32, 2#32], .fault, .queueOverflow) := by decide
/-- FR-3, index 4. -/
theorem test_lineLastBoth : (after (.lineLastBoth 0x80000000#32 0x80000000#32) (inFrame .strip 4)).map
    (fun t => (t.q, t.phase)) = some ([0x80000000#32, 0x80000000#32], .flush) := by decide
/-- FR-4: a module cut at once. -/
theorem test_modcut : (after .modcut (inFrame .strip 5)).map (fun t => (t.phase, t.q, t.rd)) = some (.flush, [],
    5) := by
  decide
/-- PK-3, the whole module. -/
theorem test_flush : (after .flush (draining [0x08291234#32, 0x07FF5678#32])).map (fun t => (t.out, t.phase, t.q)) =
    some ([0x1085123410881234#64, 0xC07F567800000000#64], .modhdr, []) := by decide
/-- OV-10: two words replaced by one. -/
theorem test_flush_overlap : (after .flush (draining [0x00530001#32, 0x00600002#32] .on)).map
    (fun t => (t.out, t.ovf, t.mbuf, t.status)) = some ([0xFFFFFFFFFFFFFFFF#64], false, [], .none) := by decide
/-- P1, step 11. -/
theorem test_ftr : (after (.ftr 0xCCCC000000000001#64) (inFrame .ftr 5)).map (fun t => (t.out, t.rd, t.phase)) =
    some ([0xCCCC000000000001#64], 6, .ftr) := by decide
/-- P1, step 14. -/
theorem test_frameEnd : (after .frameEnd (inFrame .ftr 8)).map (fun t => (t.phase, t.status)) = some (.done, .ok) := by
  decide
theorem test_frameEnd_early : refusal .frameEnd (inFrame .ftr 7) = some .notEnabled := by decide
theorem test_cwNohit : after .cwNohit (inFrame .strip 4 [7#32]) = some (inFrame .strip 4 [7#32]) := by decide
/-- WX-1: the odd final record. -/
theorem test_cwS0 : (after (.cwS0 1#1 5#12 0xAB#16) (draining [0x802800AB#32])).map (fun t => (t.out, t.held, t.q)) =
    some ([0x900500AB00000000#64], none, []) := by decide
/-- DC-W2: the secondary's position wraps. -/
theorem test_cwS1 : (after (.cwS1 0#1 0xFFF#12 0xBEEF#16) (draining [0x7FF9BEEF#32])).map (·.prev) =
    some (some ⟨2#12, 1#3, 0xBEEF#16⟩) := by decide
/-- DC-2, not the module's last. -/
theorem test_cwS2 : (after (.cwS2 0#1 0x105#12 0x1234#16) (draining [0x082A1234#32, 1#32])).map (·.out) =
    some [0x1085123410871234#64] := by decide
/-- WX-2. -/
theorem test_cwS3 : (after (.cwS3 1#1 10#12 0x1234#16) (draining [0x80531234#32])).map (·.out) =
    some [0x100A1234A00C1234#64] := by decide
/-- DC-4: held until the next record. -/
theorem test_cwS4 : (after (.cwS4 0#1 0x105#12 0x1234#16) (draining [0x082C1234#32, 1#32])).map
    (fun t => (t.held, t.out)) = some (some 0x20851234#32, []) := by decide
/-- DC-5. -/
theorem test_cwS5 : (after (.cwS5 0#1 0x105#12 0x1234#16) (draining [0x082D1234#32, 1#32])).map (·.out) =
    some [0x2085123410881234#64] := by decide
/-- DC-6. -/
theorem test_cwS6 : (after (.cwS6 0#1 0x105#12 0x1234#16) (draining [0x082E1234#32, 1#32])).map (·.held) =
    some (some 0x30851234#32) := by decide
/-- DC-M. -/
theorem test_cwS7 : (after (.cwS7 1#1 0xFFF#12 0xFFFF#16) (draining [0xFFFFFFFF#32])).map (·.out) =
    some [0xC7FFFFFF00000000#64] := by decide
/-- OV-5: an overlap inside one ClusterWord. -/
theorem test_cwS1_overlap : (after (.cwS1 0#1 0xFFD#12 0xBEEF#16) (draining [0x7FE9BEEF#32] .on)).map
    (fun t => (t.ovf, t.mbuf, t.out)) = some (true, [0x57FDBEEF9000BEEF#64], []) := by decide
/-- UR-11 and UR-12. -/
theorem test_unroll_row0 : (after (.unroll 0xF7F#12) State.reset).map (·.unrolled) = some ⟨2047#12, 0#1⟩ := by decide
theorem test_unroll_row1 : (after (.unroll 0xF80#12) State.reset).map (·.unrolled) = some ⟨1920#12, 1#1⟩ := by decide
/-- EN-3, final. -/
theorem test_encodeHit : (after (.encodeHit ⟨0x105#12, 3#3, 0x1234#16⟩ true) (draining [])).map (·.out) =
    some [0xB085123400000000#64] := by decide
/-- EN-6: the zero record is held like any other. -/
theorem test_encodeHit_zero : (after (.encodeHit ⟨0#12, 4#3, 0#16⟩ false) (draining [])).map (·.held) =
    some (some 0#32) := by decide
/-- PK-2: a pair word whose upper half is zero. -/
theorem test_outPair : (after (.outPair 0#32 0x80000000#32) { draining [] with held := some 0#32 }).map
    (fun t => (t.out, t.held)) = some ([0x80000000#64], none) := by decide
/-- PK-1. -/
theorem test_outOdd : (after (.outOdd 0x80000000#32) (draining [])).map (·.out) = some [0x8000000000000000#64] := by
  decide
/-- OV-2. -/
theorem test_outSentinel :
    (after .outSentinel { draining [] .on with ovf := true, mbuf := [0x200A0001900B0002#64] }).map
      (fun t => (t.out, t.phase, t.mbuf, t.ovf)) = some ([0xFFFFFFFFFFFFFFFF#64], .modhdr, [], false) := by decide

/-! ### Other definitions -/

/-- 10_state.md R27: the codes of the status values. -/
theorem test_statusCode :
    (Status.none.code, Status.ok.code, Status.invalidLength.code, Status.queueOverflow.code) = (0, 1, 2, 3) := by decide
/-- EN-5 and EN-8. -/
theorem test_encodeRecord : (encodeRecord ⟨0xFFF#12, 4#3, 0xFFFF#16⟩ true, encodeRecord ⟨0x080#12, 1#3, 0#16⟩ false) =
    (0xC7FFFFFF#32, 0x50000000#32) := by decide
/-- OV-6 and OV-7: the untruncated size counts. -/
theorem test_moduleOutput_size4 :
    (moduleOutput .on [0x00570001#32, 0x00680002#32], moduleOutput .on [0x00570001#32, 0x00700002#32]) =
      ([0xFFFFFFFFFFFFFFFF#64], [0x000A0001900E0002#64]) := by decide
/-- FR-2, the empty frame. -/
theorem test_frame_empty : frameResult (cfgOf 0 0) [] = ⟨.ok, []⟩ := by decide
/-- FR-4, the literal `vSize = 7`. -/
theorem test_frame_cutAtOnce : frameResult (cfgOf 3 3) [1#64, 2#64, 3#64, 4#64, 0x802800AB00000000#64, 5#64, 6#64] =
    ⟨.ok, [1#64, 2#64, 3#64, 4#64, 0x802800AB00000000#64, 5#64, 6#64]⟩ := by decide
/-- P2. -/
theorem test_frame_threeModules :
    frameResult (cfgOf 1 1) [0xA1#64, 0xB1#64, 0x03F31111082D2222#64, 0xFFFF333300000000#64, 0xB2#64,
      0x0000000090014444#64, 0xB3#64, 0xF1#64] =
    ⟨.ok, [0xA1#64, 0xB1#64, 0x107E111160001111#64, 0x2085222210882222#64, 0xC7FF333300000000#64, 0xB2#64,
      0x1100444491034444#64, 0xB3#64, 0xF1#64]⟩ := by decide
/-- P6 and EX-2. -/
theorem test_frame_overflow :
    frameResult (cfgOf 0 0 .off (some 2)) [0xB0#64, 0x8008000100000000#64, 0xB1#64, 0x0010000200180003#64,
      0x8020000400000000#64] = ⟨.queueOverflow, [0xB0#64, 0x9001000100000000#64, 0xB1#64]⟩ := by decide
/-- PK-5 unpacked. -/
theorem test_unpack : unpack [0x1085123410881234#64, 0x1085123410881234#64, 0x9001000900000000#64] =
    [0x10851234#32, 0x10881234#32, 0x10851234#32, 0x10881234#32, 0x90010009#32] := by decide

/-! ### Witnesses: for each statement with hypotheses, a state and operands that meet them, at the bounds -/

/-- The state that the frame witnesses of the invariant start from: WX-1's frame in phase HDR. -/
theorem witness_inv : (inFrame .hdr 3).Inv := by
  simp [inFrame, cfgOf, State.reset, State.Inv, State.running, State.frameMapOk, State.readIndexOk, State.queueOk,
    State.flushOk, State.statusOk, Phase.presentable, lengthFits]

theorem witness_DecodeEncodeAgree :
    ∀ i ∈ [Instr.lineCont 0x7FFFFFFF#32 0#32, .lineLastHi 0x80000000#32 0#32, .lineLastLo 0#32 0x80000000#32,
      .lineLastBoth 0xFFFFFFFF#32 0x80000000#32, .cwS0 1#1 0#12 0#16, .cwS0 0#1 0#12 1#16, .encodeHit ⟨0#12, 1#3,
      0#16⟩ true,
      .encodeHit ⟨0xFFF#12, 4#3, 0#16⟩ false, .outPair 0x7FFFFFFF#32 0#32, .outOdd 0x80000000#32],
      i.wellFormed = true := by decide

theorem witness_DecodedBitsReencode : decoded .record 0xF7FFFFFF#64 = some (.encodeHit ⟨0xFFF#12, 3#3,
    0xFFFF#16⟩ true) := by
  decide

theorem witness_BitsSelectTheRow :
    clusterWord 0#1 0#12 0#3 1#16 ≠ 0#32 ∧ clusterWord 1#1 0#12 0#3 0#16 ≠ 0#32 ∧
    clusterWord 0#1 0#12 1#3 0#16 ≠ 0#32 := by
  decide

theorem witness_LastIndicatorAndHalfFlags :
    let s := inFrame .strip 4
    s.phase = .strip ∧ s.rd < s.fe ∧ s.cfg.queueCapacity = none := by decide

theorem witness_ResetAtAnyTime :
    let s := withAct (.give .reset) (inFrame .flush 5 [1#32])
    s.schedule = ⟨0, .give .reset⟩ :: [] := by decide

/-- The two lengths on either side of the length check. -/
theorem witness_StartClearsAndChecksLength :
    let s := { State.reset with cfg := cfgOf 3 3 }
    s.phase.presentable = true ∧ lengthFits s.cfg 5 = true ∧ lengthFits s.cfg 6 = true ∧
    5 < s.cfg.headerSize + s.cfg.footerSize ∧ s.cfg.headerSize + s.cfg.footerSize ≤ 6 := by decide

theorem witness_FramesDoNotOverlap :
    (inFrame .ftr 8).phase ∉ [Phase.idle, .done, .errLen, .fault] ∧
    (inFrame .done 8).phase ∈ [Phase.idle, .done, .errLen, .fault] ∧ lengthFits (inFrame .done 8).cfg 8 = true := by
  decide

/-- The first length and the first header and footer that 3 bits do not hold. -/
theorem witness_CountersNeverWrap_refused :
    let s := { State.reset with cfg := cfgOf 3 3 .off none (some 3) }
    let s' := { State.reset with cfg := cfgOf 4 4 .off none (some 3) }
    s.phase.presentable = true ∧ s.cfg.lenWidth = some 3 ∧ 2 ^ 3 ≤ 8 ∧
    s'.phase.presentable = true ∧ s'.cfg.lenWidth = some 3 ∧ 2 ^ 3 ≤ s'.cfg.headerSize + s'.cfg.footerSize := by decide

theorem witness_CountersNeverWrap_kept :
    let s := inFrame .hdr 3 [] .off none (some 4)
    s.Inv ∧ ∃ t, step s = .next t ∧ t.running ∧ t.cfg.lenWidth = some 4 := by
  refine ⟨?_, _, rfl, rfl, rfl⟩
  simp [inFrame, cfgOf, State.reset, State.Inv, State.running, State.frameMapOk, State.readIndexOk, State.queueOk,
    State.flushOk, State.statusOk, Phase.presentable, lengthFits]

theorem witness_StartForgetsEarlierFrames :
    let s₁ := { inFrame .done 8 with out := [1#64], status := .ok }
    let s₂ := { State.reset with cfg := cfgOf 3 3 }
    s₁.cfg = s₂.cfg ∧ s₁.phase.presentable = true ∧ s₂.phase.presentable = true ∧ lengthFits s₁.cfg 8 = true := by
  decide

theorem witness_HeaderWordsAreCopied :
    (inFrame .hdr 2).phase = .hdr ∧ (inFrame .hdr 2).rd < (inFrame .hdr 2).cfg.headerSize ∧
    (inFrame .hdr 3).undisturbed ∧ (inFrame .hdr 3).phase = .hdr ∧
    (inFrame .hdr 3).rd = (inFrame .hdr 3).cfg.headerSize := by
  decide

theorem witness_ModuleRegionEnds : (inFrame .modhdr 5).phase = .modhdr ∧
    (inFrame .modhdr 5).rd = (inFrame .modhdr 5).fe := by
  decide

theorem witness_ModuleHeaderIsCopied :
    (inFrame .modhdr 4).phase = .modhdr ∧ (inFrame .modhdr 4).rd < (inFrame .modhdr 4).fe := by decide

/-- Two halves that just fit. -/
theorem witness_StripLineQueuesItsHalves :
    let s := inFrame .strip 4 [1#32] .off (some 3)
    s.phase = .strip ∧ s.rd < s.fe ∧ s.cfg.queueCapacity = some 3 ∧
    s.q.length + ([2#32, 3#32].filter (· ≠ 0#32)).length = 3 := by decide

theorem witness_FullQueueStopsTheFrame :
    let s := inFrame .strip 4 [1#32] .off (some 1)
    let s' := inFrame .strip 4 [1#32] .off (some 2)
    s.phase = .strip ∧ s.rd < s.fe ∧ s.cfg.queueCapacity = some 1 ∧ s.q.length = 1 ∧
    s'.phase = .strip ∧ s'.rd < s'.fe ∧ s'.cfg.queueCapacity = some 2 ∧ s'.q.length + 1 = 2 := by decide

theorem witness_ModuleIsCutAtTheFooter : (inFrame .strip 5).phase = .strip ∧
    (inFrame .strip 5).rd = (inFrame .strip 5).fe := by
  decide

theorem witness_FooterWordsAreCopied : (inFrame .ftr 7).phase = .ftr ∧ (inFrame .ftr 7).rd < (inFrame .ftr 7).vs := by
  decide

theorem witness_FrameCompletes : (inFrame .ftr 8).phase = .ftr ∧ (inFrame .ftr 8).rd = (inFrame .ftr 8).vs := by decide

/-- In phase IDLE every guard fails; the bound of each guard in its own phase is in the tests of the rows. -/
theorem witness_DisabledRowsAreRefused :
    let s := State.reset
    ¬ (s.phase = .hdr ∧ s.rd < s.cfg.headerSize) ∧ ¬ (s.phase = .modhdr ∧ s.rd < s.fe) ∧
    ¬ (s.phase = .modhdr ∧ s.rd = s.fe) ∧ ¬ (s.phase = .strip ∧ s.rd < s.fe) ∧ ¬ (s.phase = .strip ∧ s.rd = s.fe) ∧
    s.phase ≠ .flush ∧ ¬ (s.phase = .ftr ∧ s.rd < s.vs) ∧ ¬ (s.phase = .ftr ∧ s.rd = s.vs) ∧
    ¬ (s.phase = .flush ∧ s.q ≠ []) ∧ ¬ (s.phase = .flush ∧ s.held = some 0#32) ∧
    ¬ (s.phase = .flush ∧ s.held = none ∧ (0#32 : Record).getLsbD 31 = true) ∧
    ¬ (s.phase = .flush ∧ s.q = [] ∧ s.cfg.overlapCheck = .on ∧ s.ovf = true) := by decide

theorem witness_NoHitIsDropped :
    ((inFrame .strip 4).phase ≠ .flush ∨ (inFrame .strip 4).q.head? ≠ some 0#32) ∧
    (draining [0#32, 1#32]).phase = .flush ∧ (draining [0#32, 1#32]).q = 0#32 :: [1#32] ∧
    (inFrame .strip 4).phase = .strip ∧ (inFrame .strip 4).rd < (inFrame .strip 4).fe ∧
    (inFrame .strip 4).cfg.queueCapacity = none ∧ (1#32 : ClusterWord) ≠ 0#32 := by decide

theorem witness_ClusterRowsTakeTheirHits :
    (draining [0x82F1234#32]).phase = .flush ∧ (draining [0x82F1234#32]).q = 0x82F1234#32 :: [] := by decide

theorem witness_ClusterRowFrame :
    (∃ t, exec (.cwS3 0#1 1#12 2#16) (draining [1#32] .off) = .next t) ∧
    (draining [1#32] .off).cfg.overlapCheck = .off ∧
    (∃ t, exec (.cwS3 0#1 1#12 2#16) (draining [1#32] .on) = .next t) ∧ (draining [1#32] .on).cfg.overlapCheck = .on :=
  ⟨⟨_, rfl⟩, rfl, ⟨_, rfl⟩, rfl⟩

/-- DC-W3: the largest position whose secondary does not wrap. -/
theorem witness_IdsPassThroughAndHitsStayApart :
    decodeOne 0x7FE1BEEF#32 = [⟨0xFFC#12, 1#3, 0xBEEF#16⟩, ⟨0xFFF#12, 1#3, 0xBEEF#16⟩] ∧
    (0xFFC#12 : Position).toNat < (0xFFF#12 : Position).toNat := by decide

/-- UR-3 and UR-4: the strips on either side of the row boundary. -/
theorem witness_UnrollComputesIndexAndRow : (0x07F#12 : Position).toNat % 256 < 128 ∧
    128 ≤ (0x080#12 : Position).toNat % 256 := by
  decide

theorem witness_UnrollIsABijection : unroll 0xF7F#12 = unroll 0xF7F#12 ∧ (2047#12).toNat < 2048 := by decide

theorem witness_EncodedHitGoesToThePacker :
    (draining []).phase = .flush ∧ { draining [] with held := some 5#32 }.held = some 5#32 ∧
    (draining []).held = none := by
  decide

theorem witness_PairWordIsPacked :
    let s := { draining [] with held := some 0#32 }
    s.phase = .flush ∧ s.held = some 0#32 := by decide

theorem witness_OddRecordIsFlushedAlone :
    (draining []).phase = .flush ∧ (draining []).held = none ∧ (0x80000000#32 : Record).getLsbD 31 = true := by decide

/-- Three hits: a pair, then the final one alone. -/
theorem witness_PlainOutputPacksInPairs :
    let hs : List DecodedHit := [⟨0#12, 1#3, 0#16⟩, ⟨1#12, 1#3, 0#16⟩, ⟨2#12, 4#3, 0#16⟩]
    hs[2 * 0]? = some ⟨0#12, 1#3, 0#16⟩ ∧ hs[2 * 0 + 1]? = some ⟨1#12, 1#3, 0#16⟩ ∧
    hs[2 * 1]? = some ⟨2#12, 4#3, 0#16⟩ ∧ 2 * 1 + 1 = hs.length := by decide

theorem witness_UnpackingRoundTrips : [(⟨0#12, 4#3, 0#16⟩ : DecodedHit)] ≠ [] := by decide

/-- A pair word and a final odd word. -/
theorem witness_PackedWordProperties :
    (plainOutput [⟨0x105#12, 1#3, 0x1234#16⟩, ⟨0x108#12, 1#3, 0x1234#16⟩, ⟨0x0FF#12, 4#3, 0x5678#16⟩])[0]? =
      some 0x1085123410881234#64 ∧
    (plainOutput [⟨0x105#12, 1#3, 0x1234#16⟩, ⟨0x108#12, 1#3, 0x1234#16⟩, ⟨0x0FF#12, 4#3, 0x5678#16⟩])[1]? =
      some 0xC07F567800000000#64 := by decide

theorem witness_SentinelReplacesTheModule :
    let s := { draining [] .on with ovf := true }
    s.phase = .flush ∧ s.q = [] ∧ s.cfg.overlapCheck = .on ∧ s.ovf = true := by decide

theorem witness_DrainedModuleReleasesItsWords :
    (draining [] .on).phase = .flush ∧ (draining [] .on).q = [] ∧ (draining [] .on).cfg.overlapCheck = .on ∧
    (draining [] .on).ovf = false ∧ (draining [] .off).phase = .flush ∧ (draining [] .off).cfg.overlapCheck = .off := by
  decide

theorem witness_FlushEmitsModuleOutput :
    (draining [1#32, 0x80000000#32]).atFlushEntry ∧ ∀ c ∈ (draining [1#32, 0x80000000#32]).q, c ≠ 0#32 :=
  ⟨by decide, by simp [draining, inFrame]⟩

theorem witness_FlushRunsTheQueueInTurn : (draining [1#32]).phase = .flush ∧ (draining [1#32]).q = 1#32 :: [] := by
  decide

/-- OV-3. -/
theorem witness_OverlappingModuleIsRecoverable :
    let s := draining [0x00500001#32, 0x00500002#32] .on
    s.atFlushEntry ∧ (∀ c ∈ s.q, c ≠ 0#32) ∧ s.cfg.overlapCheck = .on ∧ overlaps (decodeQueue s.q) = true :=
  ⟨by decide, by simp [draining, inFrame], by decide, by decide⟩

theorem witness_StepRunsTheDecodedInstruction :
    let s := { inFrame .hdr 0 with input := [9#64] }
    let s' := { s with taking := false }
    nextMove s = .run .header 9#64 ∧ decoded .header 9#64 = some (.hdr 9#64) ∧ s.taking = true ∧
    nextMove s' = .run .header 9#64 ∧ s'.taking = false ∧
    (after (.hdr 9#64) s'.clock).map (fun t => decide (s'.out.length < t.out.length)) = some true := by decide

/-- A stalled host and a transition that emits nothing. -/
theorem witness_StepRunsTheDecodedInstruction_silent :
    let s := { inFrame .modhdr 5 with taking := false }
    nextMove s = .run .regionEnd 0#64 ∧ decoded .regionEnd 0#64 = some .modend ∧
    (after .modend s.clock).map (fun t => decide (t.out.length ≤ s.out.length)) = some true := by decide

theorem witness_StepFiresTheEnabledTransition_start :
    let s := withAct (.present 8) State.reset
    s.schedule = ⟨0, .present 8⟩ :: [] ∧ s.taking = true := by decide

theorem witness_StepFiresTheEnabledTransition_words :
    (∀ s ∈ [inFrame .hdr 2, inFrame .modhdr 4, inFrame .strip 4, inFrame .ftr 7],
      { s with input := List.replicate 8 9#64 }.undisturbed ∧
      { s with input := List.replicate 8 9#64 }.input[s.rd]? = some 9#64) ∧
    (inFrame .hdr 2).rd < (inFrame .hdr 2).cfg.headerSize ∧ (inFrame .modhdr 4).rd < (inFrame .modhdr 4).fe ∧
    (inFrame .strip 4).rd < (inFrame .strip 4).fe ∧ (inFrame .ftr 7).rd < (inFrame .ftr 7).vs := by
  refine ⟨?_, ?_, ?_⟩ <;> decide

theorem witness_StepFiresTheEnabledTransition_ends :
    (∀ s ∈ [inFrame .hdr 3, inFrame .modhdr 5, inFrame .strip 5], s.undisturbed) ∧
    (∀ s ∈ [draining [1#32], draining [], inFrame .ftr 8], s.undisturbed) ∧
    (inFrame .hdr 3).rd = (inFrame .hdr 3).cfg.headerSize ∧ (inFrame .modhdr 5).rd = (inFrame .modhdr 5).fe ∧
    (inFrame .strip 5).rd = (inFrame .strip 5).fe ∧ (draining [1#32]).q = 1#32 :: [] ∧ (draining []).q = [] ∧
    (inFrame .ftr 8).rd = (inFrame .ftr 8).vs := by
  refine ⟨?_, ?_, ?_, ?_, ?_, ?_, ?_, ?_⟩ <;> decide

/-- The guards of the four reading phases are those of `witness_StepFiresTheEnabledTransition_words`. -/
theorem witness_CoreWaitsForTheHost :
    State.reset.schedule = [] ∧ State.reset.phase ∈ [Phase.idle, .done, .errLen, .fault] ∧
    (∀ s ∈ [inFrame .hdr 2, inFrame .modhdr 4, inFrame .strip 4, inFrame .ftr 7],
      s.schedule = [] ∧ s.input[s.rd]? = none) := by
  refine ⟨?_, ?_, ?_⟩ <;> decide

theorem witness_NoWordIsDroppedWhileTheHostStalls :
    let s := { inFrame .hdr 0 with input := [9#64], taking := false }
    s.taking = false ∧ s.phase.presentable = false ∧ nextMove s = .run .header 9#64 ∧
    decoded .header 9#64 = some (.hdr 9#64) ∧
    (after (.hdr 9#64) s.clock).map (·.out) = some (s.out ++ [9#64]) ∧ afterStep s = some s := by decide

/-- A change and no change of the configuration during a frame, a change outside one, a word and a readiness given. -/
theorem witness_ConfigurationIsHeldDuringAFrame :
    let s := inFrame .ftr 5
    s.phase.presentable = false ∧ cfgOf 1 1 ≠ s.cfg ∧ State.reset.phase.presentable = true ∧
    stepRefusal (withAct (.give (.configure (cfgOf 1 1))) s) = some .configChangedInFrame ∧
    afterStep (withAct (.give (.configure s.cfg)) s) = some s ∧
    (afterStep (withAct (.give (.configure (cfgOf 1 1))) State.reset)).map (·.cfg) = some (cfgOf 1 1) ∧
    (afterStep (withAct (.give (.supply 9#64)) s)).map (·.input) = some [9#64] ∧
    (afterStep (withAct (.give (.takeOutput false)) s)).map (·.taking) = some false := by decide

/-- A step that consumes and emits a word. -/
theorem witness_ReadIndexNeverSkips :
    let s := { inFrame .hdr 0 with input := [9#64] }
    nextMove s = .run .header 9#64 ∧ (afterStep s).map (fun t => (t.rd, t.out)) = some (1, [9#64]) := by decide

/-- The module's end, whose step emits a whole module's words. -/
theorem witness_OutputOnlyGrows :
    let s := { draining [] .on with mbuf := [7#64, 8#64], out := [6#64] }
    nextMove s = .run .moduleEnd 0#64 ∧ (afterStep s).map (·.out) = some [6#64, 7#64, 8#64] := by decide

/-- A step within the frame, and the step from its footer to DONE. -/
theorem witness_StepKeepsTheInvariant :
    ((inFrame .hdr 3).Inv ∧ ∃ t, step (inFrame .hdr 3) = .next t) ∧
    ((inFrame .ftr 8).Inv ∧ (inFrame .ftr 8).admittedFrameOk ∧
      ∃ t, step (inFrame .ftr 8) = .next t ∧ t.cfg = (inFrame .ftr 8).cfg ∧ t.phase = .done) := by
  refine ⟨⟨witness_inv, _, rfl⟩, ?_, ?_, _, rfl, rfl, rfl⟩ <;>
    simp [inFrame, cfgOf, State.reset, State.Inv, State.admittedFrameOk, State.running, State.frameMapOk,
      State.readIndexOk, State.queueOk, State.flushOk, State.statusOk, Phase.presentable, lengthFits]

theorem witness_OnlyTheHostCanStopTheCore :
    let s := withAct (.present 8) (inFrame .hdr 3)
    s.Inv ∧ stepRefusal s = some .frameInProgress :=
  ⟨witness_inv, by decide⟩

/-- FR-1, presented from reset: two header words, one footer word, with delays. -/
theorem witness_StepMachineComputesFrame :
    let cfg := cfgOf 2 1
    let ws : List Word64 := [1#64, 2#64, 3#64]
    let feed : List HostEvent :=
      [⟨0, .give (.supply 1#64)⟩, ⟨4, .give (.supply 2#64)⟩, ⟨1, .give (.supply 3#64)⟩]
    let s := { State.reset with schedule := ⟨1, .give (.configure cfg)⟩ :: ⟨0, .present ws.length⟩ :: feed }
    s.phase.presentable = true ∧ s.taking = true ∧ lengthFits cfg ws.length = true ∧
    s.schedule = ⟨1, .give (.configure cfg)⟩ :: ⟨0, .present ws.length⟩ :: feed ∧
    feed.map (·.act) = ws.map (fun w => .give (.supply w)) := by decide

/-- P3 with the check on: one module that overlaps and one that does not. -/
theorem witness_OutputLengthIsExact :
    (frameResult (cfgOf 0 0 .on) [0xB1#64, 0x8054000100580002#64, 0xB2#64, 0x80A0000300A80004#64]).status = .ok ∧
    overlaps (decodeQueue [0x80540001#32, 0x00580002#32]) = true ∧
    overlaps (decodeQueue [0x80A00003#32, 0x00A80004#32]) = false := by decide

/-- FR-9. -/
theorem witness_OutputOrderIsTheContract :
    (frameResult (cfgOf 0 0) [0xB0#64, 0x8000000000000000#64]).status = .ok := by decide

/-- The lengths on either side of the length check. -/
theorem witness_UnboundedQueueNeverOverflows :
    (cfgOf 2 2).queueCapacity = none ∧ (frameResult (cfgOf 2 2) [1#64, 2#64, 3#64]).status = .invalidLength ∧
    (frameResult (cfgOf 2 2) [1#64, 2#64, 3#64, 4#64]).status = .ok := by decide

/-- EX-3. -/
theorem witness_OverflowedOutputIsPrecise :
    (frameResult (cfgOf 0 0 .off (some 0)) [0xB0#64, 0x8000000000000000#64, 0xB1#64]).status = .queueOverflow := by
  decide

theorem witness_ModulesDoNotInteract :
    regionClosed false [0xB0#64, 0x8000000000000000#64] = true ∧
    (moduleRegion (cfgOf 0 0) none [0xB0#64, 0x8000000000000000#64]).status = .ok := by decide

end Sys2Proof.Tests
end

section
/-!
SUPPORT. What every step keeps (spec/10_state.md): the read index, the output stream and the invariant of R32. Each
part of the invariant is shown for the transitions T1 to T10 (`Fires`), for START and for the host's other acts, and
`step_next` puts them together.
-/

namespace Sys2Proof.Machine

/-! ### What a strip line, T7 and T8 leave in each field -/

section Fields

variable (hi lo : ClusterWord) (c : ClusterWord) (s : State)

@[simp] theorem queueLine_rd : (s.queueLine hi lo).rd = s.rd + 1 := by
  simp only [State.queueLine]; split <;> simp
@[simp] theorem queueLine_vs : (s.queueLine hi lo).vs = s.vs := by
  simp only [State.queueLine]; split <;> simp
@[simp] theorem queueLine_fe : (s.queueLine hi lo).fe = s.fe := by
  simp only [State.queueLine]; split <;> simp
@[simp] theorem queueLine_out : (s.queueLine hi lo).out = s.out := by
  simp only [State.queueLine]; split <;> simp
@[simp] theorem queueLine_cfg : (s.queueLine hi lo).cfg = s.cfg := by
  simp only [State.queueLine]; split <;> simp

@[simp] theorem endLine_rd : s.endLine.rd = s.rd := by unfold State.endLine; split <;> simp
@[simp] theorem endLine_vs : s.endLine.vs = s.vs := by unfold State.endLine; split <;> simp
@[simp] theorem endLine_fe : s.endLine.fe = s.fe := by unfold State.endLine; split <;> simp
@[simp] theorem endLine_out : s.endLine.out = s.out := by unfold State.endLine; split <;> simp
@[simp] theorem endLine_cfg : s.endLine.cfg = s.cfg := by unfold State.endLine; split <;> simp

@[simp] theorem takeCluster_phase : (s.takeCluster c).phase = s.phase := by
  unfold State.takeCluster; split <;> simp
@[simp] theorem takeCluster_rd : (s.takeCluster c).rd = s.rd := by
  unfold State.takeCluster; split <;> simp
@[simp] theorem takeCluster_vs : (s.takeCluster c).vs = s.vs := by
  unfold State.takeCluster; split <;> simp
@[simp] theorem takeCluster_fe : (s.takeCluster c).fe = s.fe := by
  unfold State.takeCluster; split <;> simp
@[simp] theorem takeCluster_q : (s.takeCluster c).q = s.q.tail := by
  unfold State.takeCluster; split <;> simp
@[simp] theorem takeCluster_status : (s.takeCluster c).status = s.status := by
  unfold State.takeCluster; split <;> simp
@[simp] theorem takeCluster_cfg : (s.takeCluster c).cfg = s.cfg := by
  unfold State.takeCluster; split <;> simp

@[simp] theorem endModule_phase : s.endModule.phase = .modhdr := rfl
@[simp] theorem endModule_rd : s.endModule.rd = s.rd := by simp [State.endModule]
@[simp] theorem endModule_vs : s.endModule.vs = s.vs := by simp [State.endModule]
@[simp] theorem endModule_fe : s.endModule.fe = s.fe := by simp [State.endModule]
@[simp] theorem endModule_q : s.endModule.q = [] := rfl
@[simp] theorem endModule_status : s.endModule.status = s.status := by simp [State.endModule]
@[simp] theorem endModule_cfg : s.endModule.cfg = s.cfg := by simp [State.endModule]

end Fields

/-! ### The output stream (R25) -/

theorem takeHits_out_grows (hs : List DecodedHit) (s : State) : ∃ ws, (s.takeHits hs).out = s.out ++ ws := by
  have grow := acceptHits_grow hs s.popCluster.q.isEmpty s.popCluster
  cases hc : s.cfg.overlapCheck with
  | off => exact (grow.1 hc).1
  | on => exact ⟨[], by simpa [State.takeHits] using (grow.2 hc).2⟩

theorem takeCluster_out_grows (c : ClusterWord) (s : State) : ∃ ws, (s.takeCluster c).out = s.out ++ ws := by
  unfold State.takeCluster
  split
  · exact ⟨[], by simp⟩
  · exact takeHits_out_grows _ s

theorem endModule_out_grows (s : State) : ∃ ws, s.endModule.out = s.out ++ ws := by
  rw [endModule_eq]
  dsimp only
  split
  · exact ⟨[], by simp⟩
  · split <;> exact ⟨_, rfl⟩

theorem Fires.out_grows {s t : State} (hf : Fires s t) : ∃ ws, t.out = s.out ++ ws := by
  cases hf with
  | t1 w | t3 w | t9 w => exact ⟨[w], by simp⟩
  | t2 | t4 | t6 | t10 => exact ⟨[], by simp⟩
  | t5 w => exact ⟨[], by split <;> simp⟩
  | t7 c => exact takeCluster_out_grows c s
  | t8 => exact endModule_out_grows s

/-! ### The read index and the frame map (R22, R23) -/

theorem Fires.frame_kept {s t : State} (hf : Fires s t) : t.vs = s.vs ∧ t.fe = s.fe ∧ t.cfg = s.cfg := by
  cases hf with
  | t5 w => split <;> simp
  | _ => simp

theorem Fires.rd_stays_or_next {s t : State} (hf : Fires s t) : t.rd = s.rd ∨ t.rd = s.rd + 1 := by
  cases hf with
  | t1 | t3 | t9 => exact .inr (by simp)
  | t5 w => exact .inr (by split <;> simp)
  | t2 | t4 | t6 | t7 | t8 | t10 => exact .inl (by simp)

/-- The host's acts other than presenting a frame, field by field (70_reset_and_hazards.md R260, R262, R263). -/
theorem hostInput_next {i : HostInput} {s t : State} (h : hostInput i s = .next t) :
    (∃ cfg, (s.running → cfg = s.cfg) ∧ t = { s with cfg := cfg }) ∨
    (∃ w, t = { s with input := s.input ++ [w] }) ∨
    (∃ b, t = { s with taking := b }) ∨
    (i = .reset ∧ t = s.resetCore) := by
  cases i with
  | configure cfg =>
    simp only [hostInput] at h
    split at h
    · cases h
    · rename_i hc
      cases h
      exact .inl ⟨cfg, fun hrun => by_contra fun hne => hc ⟨hrun, hne⟩, rfl⟩
  | supply w => cases h; exact .inr (.inl ⟨w, rfl⟩)
  | takeOutput b => cases h; exact .inr (.inr (.inl ⟨b, rfl⟩))
  | reset => cases h; exact .inr (.inr (.inr ⟨rfl, rfl⟩))

/-- A step other than START and reset leaves the output stream and the frame registers of `s` as they are, or fires a
transition. -/
theorem step_frame_kept_or_fires {s t : State} (h : step s = .next t)
    (hstart : ∀ v, nextMove s ≠ .run (.frameStart v) 0#64) (hreset : nextMove s ≠ .host .reset) :
    (t.out = s.out ∧ t.rd = s.rd ∧ t.vs = s.vs ∧ t.fe = s.fe) ∨ Fires s.clock t := by
  rcases step_next h with ⟨rfl, -⟩ | ⟨v, hv, -⟩ | hf | ⟨i, hi, ht⟩
  · exact .inl (by simp)
  · exact absurd hv (hstart v)
  · exact .inr hf
  · rcases hostInput_next ht with ⟨_, _, rfl⟩ | ⟨_, rfl⟩ | ⟨_, rfl⟩ | ⟨rfl, -⟩
    · exact .inl (by simp)
    · exact .inl (by simp)
    · exact .inl (by simp)
    · exact absurd hi hreset

/-! ### The parts of the invariant, for the transitions T1 to T10 -/

/-- T5 by its outcome (40_frame_parser.md R106, R107; 60_exceptions.md R233): the line's halves are queued and the phase
stays STRIP, or goes to FLUSH after a LAST line, or a push has overflowed and the frame stops. -/
theorem stripLine_cases (w : Word64) {s : State} (hp : s.phase = .strip) :
    let t := if lineLast w then (s.queueLine (upperHalf w) (lowerHalf w)).endLine
             else s.queueLine (upperHalf w) (lowerHalf w)
    (∃ q', pushLine s.cfg s.q w = some q' ∧
      (t = { s with rd := s.rd + 1, q := q' } ∨ t = State.enterFlush { s with rd := s.rd + 1, q := q' })) ∨
    (∃ q', pushLine s.cfg s.q w = none ∧ (q' = s.q ∨ (upperHalf w ≠ 0#32 ∧ q' = s.q ++ [upperHalf w])) ∧
      t = { s with rd := s.rd + 1, q := q', status := .queueOverflow, phase := .fault }) := by
  intro t
  rcases queueLine_spec (upperHalf w) (lowerHalf w) s (by simp [hp]) with ⟨q', hq, e⟩ | ⟨q', hq, hq', e⟩
  · rw [joinHalves_upper_lower] at hq
    refine .inl ⟨q', hq, ?_⟩
    by_cases hl : lineLast w
    · exact .inr (by simp [t, hl, e, State.endLine, hp])
    · exact .inl (by simp [t, hl, e])
  · rw [joinHalves_upper_lower] at hq
    refine .inr ⟨q', hq, hq'.imp id fun ⟨hne, _, happ⟩ => ⟨hne, happ⟩, ?_⟩
    simp [t, e, State.endLine]

theorem Fires.running {s t : State} (hf : Fires s t) : s.running := by
  cases hf <;> simp [State.running, Phase.presentable, *]

theorem Fires.status_kept {s t : State} (hf : Fires s t) (ht : t.running) : t.status = s.status := by
  cases hf with
  | t5 w hp =>
    rcases stripLine_cases w hp with ⟨q', -, e | e⟩ | ⟨q', -, -, e⟩ <;> rw [e] at ht ⊢
    · simp
    · cases ht
  | t10 => cases ht
  | _ => simp

theorem Fires.frameMapOk {s t : State} (hf : Fires s t) (h : s.frameMapOk) : t.frameMapOk := by
  obtain ⟨hle, hmap⟩ := h
  obtain ⟨hvs, hfe, hcfg⟩ := hf.frame_kept
  obtain ⟨hH, hF, hlen, hst⟩ := hmap hf.running
  simp only [State.frameMapOk, hvs, hfe, hcfg]
  exact ⟨hle, fun ht => ⟨hH, hF, hlen, (hf.status_kept ht).trans hst⟩⟩

theorem Fires.readIndexOk {s t : State} (hf : Fires s t) (hmap : s.frameMapOk) (h : s.readIndexOk) :
    t.readIndexOk := by
  obtain ⟨hle, hmap⟩ := hmap
  obtain ⟨hH, -⟩ := hmap hf.running
  cases hf with
  | t5 w hp =>
    rcases stripLine_cases w hp with ⟨q', -, e | e⟩ | ⟨q', -, -, e⟩ <;> rw [e] <;>
      simp [State.readIndexOk, hp] at h ⊢ <;> omega
  | t1 _ hp | t2 hp | t3 _ hp | t4 hp | t6 hp | t7 _ _ hp | t8 hp | t9 _ hp | t10 hp =>
    simp [State.readIndexOk, hp] at h ⊢; omega

theorem queueOk_of_nil {s : State} (h : s.q = []) : s.queueOk := by simp [State.queueOk, h]

theorem Fires.queueOk {s t : State} (hf : Fires s t) (h : s.queueOk) : t.queueOk := by
  obtain ⟨hnz, hnil, hcap⟩ := h
  have hcap := hcap hf.running
  cases hf with
  | t1 _ hp | t2 hp | t4 hp | t9 _ hp | t10 hp => exact queueOk_of_nil (by simp [hnil, hp])
  | t3 | t8 => exact queueOk_of_nil (by simp)
  | t5 w hp =>
    rcases stripLine_cases w hp with ⟨q', hq', e⟩ | ⟨q', -, hq', e⟩
    · obtain ⟨rfl, hfit⟩ := pushLine_eq hq'
      have hnz' : ∀ c ∈ s.q ++ lineClusters w, c ≠ 0#32 := fun c hc =>
        (List.mem_append.mp hc).elim (hnz c) mem_lineClusters
      have hcap' : ∀ n ∈ s.cfg.queueCapacity, (s.q ++ lineClusters w).length ≤ n := fun n hn =>
        hfit n hn (hcap n hn)
      rcases e with e | e <;> rw [e]
      · exact ⟨hnz', fun hns => absurd hp hns, fun _ => hcap'⟩
      · exact ⟨hnz', fun _ hnf => absurd rfl hnf, fun _ => hcap'⟩
    · rw [e]
      refine ⟨?_, fun _ _ hnf => absurd rfl hnf, fun hrun => by cases hrun⟩
      rcases hq' with rfl | ⟨hne, rfl⟩
      · exact hnz
      · exact fun c hc => (List.mem_append.mp hc).elim (hnz c) fun hc => by simpa [List.mem_singleton.mp hc]
  | t6 => exact ⟨hnz, fun _ hnf => absurd rfl hnf, fun _ => hcap⟩
  | t7 c cs hp hq =>
    refine ⟨fun d hd => hnz d ?_, fun _ hnf => absurd (by simpa using hp) hnf, fun _ n hn => ?_⟩
    · exact List.mem_of_mem_tail (by simpa using hd)
    · have := hcap n (by simpa using hn)
      simp only [takeCluster_q, List.length_tail]
      omega

/-! #### The registers of the streaming refinement (R30) -/

theorem packerStep_held_not_last (held : Option Record) (r : Record) :
    ∀ x ∈ (packerStep held r).1, recordLast x = false := by
  cases held with
  | some a => simp [packerStep]
  | none => cases hl : recordLast r <;> simp [packerStep, hl]

theorem packerStep_last (held : Option Record) {r : Record} (h : recordLast r = true) :
    (packerStep held r).1 = none := by
  cases held <;> simp [packerStep, h]

theorem streamPack_held_not_last {held : Option Record} (h : ∀ x ∈ held, recordLast x = false) (rs : List Record) :
    ∀ x ∈ (streamPack held rs).1, recordLast x = false := by
  induction rs generalizing held with
  | nil => exact h
  | cons r rs ih => exact ih (packerStep_held_not_last held r)

/-- The module's final hit leaves no record held (43_encoder_packer.md R188). -/
theorem streamPack_final (held : Option Record) {hs : List DecodedHit} (hne : hs ≠ []) :
    (streamPack held (hitRecords hs true)).1 = none := by
  induction hs generalizing held with
  | nil => exact absurd rfl hne
  | cons h hs ih =>
    cases hs with
    | nil => exact packerStep_last held (by simp)
    | cons h' hs =>
      rw [hitRecords, streamPack]
      simp [ih]

/-- Between modules, and when FLUSH is entered. -/
theorem flushOk_of_clear {s : State} (hh : s.held = none) (hp : s.prev = none) (ho : s.ovf = false)
    (hm : s.mbuf = []) : s.flushOk := by
  simp [State.flushOk, hh, hp, ho, hm]

/-- T7 on a nonzero ClusterWord. -/
theorem takeHits_flushOk {s : State} {hs : List DecodedHit} (hne : hs ≠ []) (hp : s.phase = .flush)
    (h : s.flushOk) : (s.takeHits hs).flushOk := by
  obtain ⟨-, hlast, -, hoff⟩ := h
  have hheld : (s.takeHits hs).held = (streamPack s.held (hitRecords hs s.q.tail.isEmpty)).1 :=
    (acceptHits_spec hs s.q.tail.isEmpty s.popCluster).1
  refine ⟨fun hnf => absurd (by simpa using hp) hnf, ?_, fun hq => ?_, fun _ hc => ?_⟩
  · rw [hheld]
    exact streamPack_held_not_last hlast _
  · have htail : s.q.tail = [] := by simpa using hq
    rw [hheld, htail]
    exact streamPack_final _ hne
  · have hc : s.cfg.overlapCheck = .off := by simpa using hc
    obtain ⟨hovf, hmbuf⟩ := hoff hp hc
    obtain ⟨-, keepsMbuf, keepsOvf⟩ := (acceptHits_grow hs s.q.tail.isEmpty s.popCluster).1 hc
    exact ⟨keepsOvf.trans hovf, keepsMbuf.trans hmbuf⟩

theorem Fires.flushOk {s t : State} (hf : Fires s t) (hq : s.queueOk) (h : s.flushOk) : t.flushOk := by
  cases hf with
  | t1 _ hp | t2 hp | t3 _ hp | t4 hp | t9 _ hp | t10 hp =>
    obtain ⟨hh, hpr, ho, hm⟩ := h.1 (by simp [hp])
    exact flushOk_of_clear hh hpr ho hm
  | t5 w hp =>
    obtain ⟨hh, hpr, ho, hm⟩ := h.1 (by simp [hp])
    rcases stripLine_cases w hp with ⟨q', -, e | e⟩ | ⟨q', -, -, e⟩ <;> rw [e]
    · exact flushOk_of_clear hh hpr ho hm
    · exact flushOk_of_clear rfl rfl rfl rfl
    · exact flushOk_of_clear hh hpr ho hm
  | t6 | t8 => exact flushOk_of_clear rfl rfl rfl rfl
  | t7 c cs hp hqc =>
    have hc : c ≠ 0#32 := hq.1 c (by simp [hqc])
    rw [takeCluster_nonzero hc]
    exact takeHits_flushOk (decodeOne_ne c) hp h

theorem Fires.statusOk {s t : State} (hf : Fires s t) (h : s.statusOk) : t.statusOk := by
  cases hf with
  | t5 w hp =>
    rcases stripLine_cases w hp with ⟨q', -, e | e⟩ | ⟨q', -, -, e⟩ <;> rw [e] <;>
      simpa [State.statusOk, hp] using h
  | t1 _ hp | t2 hp | t3 _ hp | t4 hp | t6 hp | t7 _ _ hp | t8 hp | t9 _ hp =>
    simpa [State.statusOk, hp] using h
  | t10 => simp [State.statusOk]

theorem acceptHits_unrolled (hs : List DecodedHit) (fin : Bool) {s : State} (h : s.unrolled = Unrolled.idle) :
    (State.acceptHits hs fin s).unrolled = Unrolled.idle := by
  induction hs generalizing s with
  | nil => exact h
  | cons x hs ih => exact ih (by simp [encodeAndPack_eq])

theorem takeCluster_unrolled (c : ClusterWord) {s : State} (h : s.unrolled = Unrolled.idle) :
    (s.takeCluster c).unrolled = Unrolled.idle := by
  unfold State.takeCluster
  split
  · exact h
  · exact acceptHits_unrolled _ _ h

theorem Fires.unrolled_idle {s t : State} (hf : Fires s t) (h : s.unrolled = Unrolled.idle) :
    t.unrolled = Unrolled.idle := by
  cases hf with
  | t1 | t2 | t3 | t4 | t9 | t10 => exact h
  | t5 w hp =>
    rcases stripLine_cases w hp with ⟨q', -, e | e⟩ | ⟨q', -, -, e⟩ <;> rw [e]
    · exact h
    · rfl
    · exact h
  | t6 | t8 => rfl
  | t7 c => exact takeCluster_unrolled c h

/-! ### The invariant (R32) -/

theorem Fires.inv {s t : State} (hf : Fires s t) (h : s.Inv) : t.Inv := by
  obtain ⟨hmap, hrd, hq, hfl, hst, hu⟩ := h
  exact ⟨hf.frameMapOk hmap, hf.readIndexOk hmap hrd, hf.queueOk hq, hf.flushOk hq hfl, hf.statusOk hst,
    hf.unrolled_idle hu⟩

theorem clock_inv {s : State} (h : s.Inv) : s.clock.Inv := by
  unfold State.clock; split <;> exact h

theorem startFrame_inv (v : Nat) {s : State} (hfit : lengthFits s.cfg v = true) : (s.startFrame v).Inv := by
  rcases Nat.lt_or_ge v (s.cfg.headerSize + s.cfg.footerSize) with hv | hv
  · rw [startFrame_short hv]
    exact ⟨⟨Nat.zero_le v, fun hrun => by cases hrun⟩, rfl, queueOk_of_nil rfl, flushOk_of_clear rfl rfl rfl rfl,
      ⟨rfl, rfl, rfl⟩, rfl⟩
  · rw [startFrame_admitted hv]
    exact ⟨⟨Nat.sub_le v _, fun _ => ⟨by dsimp only; omega, by dsimp only; omega, hfit, rfl⟩⟩, Nat.zero_le _,
      queueOk_of_nil rfl, flushOk_of_clear rfl rfl rfl rfl, rfl, rfl⟩

theorem resetCore_inv (s : State) : s.resetCore.Inv :=
  ⟨⟨Nat.le_refl 0, fun hrun => by cases hrun⟩, rfl, queueOk_of_nil rfl, flushOk_of_clear rfl rfl rfl rfl,
    ⟨rfl, rfl⟩, rfl⟩

/-- The parts of the invariant that speak of the configuration speak of a running frame alone, so that between frames
the host may change it (70_reset_and_hazards.md R262). -/
theorem configure_inv {s : State} (cfg : Cfg) (hidle : ¬ s.running) (h : s.Inv) : State.Inv { s with cfg := cfg } := by
  obtain ⟨⟨hle, -⟩, hrd, ⟨hnz, hnil, -⟩, ⟨hclear, hlast, hheld, -⟩, hst, hu⟩ := h
  have hnf : s.phase ≠ .flush := fun hp => hidle (by simp [State.running, hp, Phase.presentable])
  refine ⟨⟨hle, fun hrun => absurd hrun hidle⟩, ?_, ⟨hnz, hnil, fun hrun => absurd hrun hidle⟩,
    ⟨hclear, hlast, hheld, fun hp => absurd hp hnf⟩, hst, hu⟩
  cases hp : s.phase with
  | hdr | modhdr | strip | flush | ftr => exact absurd (by simp [State.running, hp, Phase.presentable]) hidle
  | idle | done | errLen | fault => simpa [State.readIndexOk, hp] using hrd

theorem hostInput_inv {i : HostInput} {s t : State} (h : hostInput i s = .next t) (hi : s.Inv) : t.Inv := by
  rcases hostInput_next h with ⟨cfg, hcfg, rfl⟩ | ⟨_, rfl⟩ | ⟨_, rfl⟩ | ⟨-, rfl⟩
  · by_cases hrun : s.running
    · rw [hcfg hrun]; exact hi
    · exact configure_inv cfg hrun hi
  · exact hi
  · exact hi
  · exact resetCore_inv s

theorem step_inv {s t : State} (hi : s.Inv) (h : step s = .next t) : t.Inv := by
  rcases step_next h with ⟨rfl, -⟩ | ⟨v, -, -, hfit, rfl⟩ | hf | ⟨i, -, ht⟩
  · exact clock_inv hi
  · exact startFrame_inv v (by simpa using hfit)
  · exact hf.inv (clock_inv hi)
  · exact hostInput_inv ht (clock_inv hi)

/-! ### The map of an admitted frame (R32) -/

theorem Fires.ne_fault_of_unbounded {s t : State} (hf : Fires s t) (hc : s.cfg.queueCapacity = none) :
    t.phase ≠ .fault := by
  cases hf with
  | t5 w hp =>
    rcases stripLine_cases w hp with ⟨q', -, e | e⟩ | ⟨q', hq', -⟩
    · simp [e, hp]
    · simp [e]
    · simp [pushLine_unbounded hc] at hq'
  | t1 _ hp | t7 _ _ hp | t9 _ hp => simp [hp]
  | t2 | t3 | t4 | t6 | t8 | t10 => simp

theorem Fires.admittedFrameOk {s t : State} (hf : Fires s t) (hi : s.Inv) : t.admittedFrameOk := by
  intro _ _
  obtain ⟨hvs, hfe, hcfg⟩ := hf.frame_kept
  obtain ⟨-, -, ⟨-, hnil, -⟩, -⟩ := hf.inv hi
  obtain ⟨⟨hle, hmap⟩, -⟩ := hi
  rw [hvs, hfe, hcfg]
  exact ⟨(hmap hf.running).1, hle, fun hc hns hnf => hnil hns hnf (hf.ne_fault_of_unbounded hc)⟩

theorem startFrame_admittedFrameOk (v : Nat) (s : State) : (s.startFrame v).admittedFrameOk := by
  rcases Nat.lt_or_ge v (s.cfg.headerSize + s.cfg.footerSize) with hv | hv
  · rw [startFrame_short hv]
    exact fun _ herr => absurd rfl herr
  · rw [startFrame_admitted hv]
    exact fun _ _ => ⟨by dsimp only; omega, Nat.sub_le v _, fun _ _ _ => rfl⟩

theorem hostInput_admittedFrameOk {i : HostInput} {s t : State} (h : hostInput i s = .next t) (hcfg : t.cfg = s.cfg)
    (ha : s.admittedFrameOk) : t.admittedFrameOk := by
  rcases hostInput_next h with ⟨cfg, -, rfl⟩ | ⟨_, rfl⟩ | ⟨_, rfl⟩ | ⟨-, rfl⟩
  · obtain rfl : cfg = s.cfg := hcfg
    exact ha
  · exact ha
  · exact ha
  · exact fun hidle => absurd rfl hidle

theorem step_admittedFrameOk {s t : State} (hi : s.Inv) (ha : s.admittedFrameOk) (h : step s = .next t)
    (hcfg : t.cfg = s.cfg) : t.admittedFrameOk := by
  have hclock : s.clock.admittedFrameOk := by simpa [State.admittedFrameOk] using ha
  rcases step_next h with ⟨rfl, -⟩ | ⟨v, -, -, -, rfl⟩ | hf | ⟨i, -, ht⟩
  · exact hclock
  · exact startFrame_admittedFrameOk v s.clock
  · exact hf.admittedFrameOk (clock_inv hi)
  · exact hostInput_admittedFrameOk ht (by simpa using hcfg) hclock

/-! ### The obligations of 10_state.md -/

/-- Settles O53: by the inversion of `step`, part by part of the invariant (`Fires.inv`). For an admitted frame the queue's
clause follows from the invariant, since an unbounded queue never leads to FAULT (`Fires.ne_fault_of_unbounded`). -/
theorem stepKeepsTheInvariant : Obligations.StepKeepsTheInvariant :=
  ⟨fun _ _ hi h => step_inv hi h, fun _ _ hi ha h hcfg => step_admittedFrameOk hi ha h hcfg⟩

/-- Settles O50: T1, T3, T5 and T9 consume a word, and no other transition or act of the host moves the index. -/
theorem readIndexNeverSkips : Obligations.ReadIndexNeverSkips := by
  intro s t h hstart hreset
  rcases step_frame_kept_or_fires h hstart hreset with ⟨-, hrd, hvs, hfe⟩ | hf
  · exact ⟨.inl hrd, hvs, hfe⟩
  · obtain ⟨hvs, hfe, -⟩ := hf.frame_kept
    exact ⟨by simpa using hf.rd_stays_or_next, by simpa using hvs, by simpa using hfe⟩

/-- Settles O51: each transition appends its words, and the host's other acts leave the stream. -/
theorem outputOnlyGrows : Obligations.OutputOnlyGrows := by
  intro s t h hstart hreset
  rcases step_frame_kept_or_fires h hstart hreset with ⟨hout, -⟩ | hf
  · exact ⟨[], by simp [hout]⟩
  · simpa using hf.out_grows

/-- Settles O7: the values of R31's table are those `State.reset` is defined with. -/
theorem resetValues : Obligations.ResetValues :=
  ⟨rfl, rfl, rfl, rfl, rfl, rfl, rfl, rfl, rfl, rfl, rfl⟩

/-- Settles O52: `State.reset` is what a reset of the core leaves of it, and IDLE is no phase of an admitted frame. -/
theorem invariantHoldsAtReset : Obligations.InvariantHoldsAtReset :=
  ⟨resetCore_inv State.reset, fun hidle => absurd rfl hidle⟩

end Sys2Proof.Machine
end

section
/-!
SUPPORT. The output of a whole frame (spec/20_memory.md): `moduleRegion`, which stops on an overflow, against the modules
that `regionModules` lists, and the number of words of each (R62, with 43_encoder_packer.md R186).
-/

namespace Sys2Proof.Machine

/-! ### The number of words of a module -/

theorem length_moduleRecords (hs : List DecodedHit) : (moduleRecords hs).length = hs.length := by
  induction hs with
  | nil => rfl
  | cons h hs ih => simp [moduleRecords_cons, ih]

theorem length_packRecords (rs : List Record) : (packRecords rs).length = (rs.length + 1) / 2 := by
  induction rs using packRecords.induct with
  | case1 => rfl
  | case2 r => simp [packRecords]
  | case3 a b rs ih => simp only [packRecords, List.length_cons, ih]; omega

theorem length_plainOutput (hs : List DecodedHit) : (plainOutput hs).length = (hs.length + 1) / 2 := by
  rw [plainOutput, length_packRecords, length_moduleRecords]

/-- A module's output after its header has the length that R62 gives it. -/
theorem length_moduleOutput (check : OverlapCheck) (q : List ClusterWord) :
    (moduleOutput check q).length = moduleWordCount check q := by
  unfold moduleOutput moduleWordCount
  split
  · rfl
  · exact length_plainOutput _

/-- The length of a sequence of modules' output: a header word for each, and the words of R62. -/
theorem length_flatMap_modules (check : OverlapCheck) (ms : List (Word64 × List ClusterWord)) :
    (ms.flatMap (fun m => m.1 :: moduleOutput check m.2)).length =
      ms.length + (ms.map (fun m => moduleWordCount check m.2)).sum := by
  induction ms with
  | nil => rfl
  | cons m ms ih =>
    simp only [List.flatMap_cons, List.length_append, List.length_cons, length_moduleOutput, ih, List.map_cons,
      List.sum_cons]
    omega

/-! ### A module region and a frame that complete -/

@[simp] theorem prepend_status (ws : List Word64) (r : FrameResult) : (r.prepend ws).status = r.status := rfl
@[simp] theorem prepend_out (ws : List Word64) (r : FrameResult) : (r.prepend ws).out = ws ++ r.out := rfl

@[simp] theorem addFooter_status (footer : List Word64) (r : FrameResult) :
    (r.addFooter footer).status = r.status := by
  unfold FrameResult.addFooter; split <;> rfl

theorem addFooter_out_of_ok (footer : List Word64) {r : FrameResult} (h : r.status = .ok) :
    (r.addFooter footer).out = r.out ++ footer := by
  simp [FrameResult.addFooter, h]

/-- A strip line of a module region that completes queues its nonzero halves without an overflow. -/
theorem moduleRegion_line_of_ok {cfg : Cfg} {q : List ClusterWord} {w : Word64} {ws : List Word64}
    (h : (moduleRegion cfg (some q) (w :: ws)).status = .ok) :
    moduleRegion cfg (some q) (w :: ws) =
      if lineLast w then (moduleRegion cfg none ws).prepend (moduleOutput cfg.overlapCheck (q ++ lineClusters w))
      else moduleRegion cfg (some (q ++ lineClusters w)) ws := by
  cases hq : pushLine cfg q w with
  | none => simp [moduleRegion, hq] at h
  | some q' =>
    obtain ⟨rfl, -⟩ := pushLine_eq hq
    simp [moduleRegion, hq]

/-- A module region that completes emits its modules in order, each its header word and then its output. The header of a
module that is already open stands in the output before. -/
theorem moduleRegion_out_of_ok (cfg : Cfg) (m : Option (Word64 × List ClusterWord)) (ws : List Word64)
    (h : (moduleRegion cfg (m.map Prod.snd) ws).status = .ok) :
    (m.map Prod.fst).toList ++ (moduleRegion cfg (m.map Prod.snd) ws).out =
      (regionModules m ws).flatMap (fun m => m.1 :: moduleOutput cfg.overlapCheck m.2) := by
  induction m, ws using regionModules.induct with
  | case1 => rfl
  | case2 m => simp [moduleRegion, regionModules]
  | case3 w ws ih => simpa [moduleRegion, regionModules] using ih h
  | case4 header q w ws hl ih =>
    have hline := (moduleRegion_line_of_ok h).trans (if_pos hl)
    simp only [Option.map_some, hline] at h ⊢
    simpa [regionModules, hl] using ih h
  | case5 header q w ws hl ih =>
    have hline := (moduleRegion_line_of_ok h).trans (if_neg hl)
    simp only [Option.map_some, hline] at h ⊢
    simpa [regionModules, hl] using ih h

theorem frameResult_admitted {cfg : Cfg} {ws : List Word64} (h : cfg.headerSize + cfg.footerSize ≤ ws.length) :
    frameResult cfg ws =
      ((moduleRegion cfg none ((ws.take (ws.length - cfg.footerSize)).drop cfg.headerSize)).addFooter
        (ws.drop (ws.length - cfg.footerSize))).prepend (ws.take cfg.headerSize) :=
  if_neg (Nat.not_lt.mpr h)

theorem admitted_of_frameResult_ok {cfg : Cfg} {ws : List Word64} (h : (frameResult cfg ws).status = .ok) :
    cfg.headerSize + cfg.footerSize ≤ ws.length := by
  by_contra hshort
  simp [frameResult, Nat.lt_of_not_le hshort] at h

/-- R112 for a frame that completes: the header, the modules in order, the footer. -/
theorem frameResult_out_of_ok {cfg : Cfg} {ws : List Word64} (h : (frameResult cfg ws).status = .ok) :
    (frameResult cfg ws).out =
      ws.take cfg.headerSize ++
      (regionModules none ((ws.take (ws.length - cfg.footerSize)).drop cfg.headerSize)).flatMap
        (fun m => m.1 :: moduleOutput cfg.overlapCheck m.2) ++
      ws.drop (ws.length - cfg.footerSize) := by
  have hframe := frameResult_admitted (admitted_of_frameResult_ok h)
  rw [hframe] at h ⊢
  rw [prepend_status, addFooter_status] at h
  have hmodules := moduleRegion_out_of_ok cfg none _ h
  simp only [Option.map_none, Option.toList_none, List.nil_append] at hmodules
  rw [prepend_out, addFooter_out_of_ok _ h, hmodules, List.append_assoc]

/-! ### The obligation of 20_memory.md -/

/-- Settles O56: the output is the header, the modules and the footer (`frameResult_out_of_ok`), and an admitted frame has
all `H` header and `F` footer words. -/
theorem outputLengthIsExact : Obligations.OutputLengthIsExact := by
  intro cfg ws h
  have hlen := admitted_of_frameResult_ok h
  simp only [frameResult_out_of_ok h, List.length_append, length_flatMap_modules, List.length_take, List.length_drop]
  omega

end Sys2Proof.Machine
end

section
/-!
SUPPORT. Decoding and encoding (spec/30_encoding.md): what `decode` reads from each slot, and that for the words of a slot
and its well-formed instructions `decode` and `encode` undo each other. The obligations of 30_encoding.md follow from the
lemmas of their slots.
-/

namespace Sys2Proof

/-! ### Formats narrower than 64 bits -/

theorem toNat_setWidth_64_lt {n : Nat} (hn : n ≤ 64) (x : BitVec n) : (x.setWidth 64).toNat < 2 ^ n := by
  rw [BitVec.toNat_setWidth_of_le hn]
  exact x.isLt

theorem setWidth_64_setWidth {n : Nat} (hn : n ≤ 64) (x : BitVec n) : (x.setWidth 64).setWidth n = x := by
  rw [BitVec.setWidth_setWidth_of_le x hn, BitVec.setWidth_eq]

theorem setWidth_setWidth_64 {n : Nat} {w : Word64} (hw : w.toNat < 2 ^ n) : (w.setWidth n).setWidth 64 = w := by
  apply BitVec.eq_of_toNat_eq
  rw [BitVec.toNat_setWidth, BitVec.toNat_setWidth, Nat.mod_eq_of_lt hw, Nat.mod_eq_of_lt w.isLt]

/-- What a slot of a narrower format reads has no bit above the format's width. -/
theorem narrow_eq_ok {n : Nat} {w : Word64} {x : Except DecodeError Instr} {i : Instr}
    (h : (if w.toNat < 2 ^ n then x else .error .widerThanFormat) = .ok i) :
    x = .ok i ∧ (w.setWidth n).setWidth 64 = w := by
  split at h
  · rename_i hw
    exact ⟨h, setWidth_setWidth_64 hw⟩
  · cases h

theorem decode_record (r : Record) : decode .record (r.setWidth 64) = decodeRecord r := by
  simp only [decode, toNat_setWidth_64_lt (n := 32) (by decide) r, if_true,
    setWidth_64_setWidth (n := 32) (by decide) r]

theorem decode_position (p : Position) : decode .position (p.setWidth 64) = .ok (.unroll p) := by
  simp only [decode, toNat_setWidth_64_lt (n := 12) (by decide) p, if_true,
    setWidth_64_setWidth (n := 12) (by decide) p]

/-! ### Steps that read no word -/

theorem decodeNoWord_eq_ok {i j : Instr} {w : Word64} : decodeNoWord i w = .ok j ↔ w = 0#64 ∧ i = j := by
  unfold decodeNoWord
  split <;> simp [*]

/-! ### Strip lines -/

theorem joinHalves_flag63 (hi lo : BitVec 32) : (joinHalves hi lo).getLsbD 63 = hi.getLsbD 31 := by
  rw [← upperHalf_flag, upperHalf_joinHalves]

theorem joinHalves_flag31 (hi lo : BitVec 32) : (joinHalves hi lo).getLsbD 31 = lo.getLsbD 31 := by
  rw [← lowerHalf_flag, lowerHalf_joinHalves]

section Lines

variable {hi lo : ClusterWord}

theorem decodeLine_cont (hhi : hi.getLsbD 31 = false) (hlo : lo.getLsbD 31 = false) :
    decodeLine (joinHalves hi lo) = .lineCont hi lo := by
  simp only [decodeLine, joinHalves_flag63, joinHalves_flag31, hhi, hlo, upperHalf_joinHalves, lowerHalf_joinHalves]

theorem decodeLine_lastHi (hhi : hi.getLsbD 31 = true) (hlo : lo.getLsbD 31 = false) :
    decodeLine (joinHalves hi lo) = .lineLastHi hi lo := by
  simp only [decodeLine, joinHalves_flag63, joinHalves_flag31, hhi, hlo, upperHalf_joinHalves, lowerHalf_joinHalves]

theorem decodeLine_lastLo (hhi : hi.getLsbD 31 = false) (hlo : lo.getLsbD 31 = true) :
    decodeLine (joinHalves hi lo) = .lineLastLo hi lo := by
  simp only [decodeLine, joinHalves_flag63, joinHalves_flag31, hhi, hlo, upperHalf_joinHalves, lowerHalf_joinHalves]

theorem decodeLine_lastBoth (hhi : hi.getLsbD 31 = true) (hlo : lo.getLsbD 31 = true) :
    decodeLine (joinHalves hi lo) = .lineLastBoth hi lo := by
  simp only [decodeLine, joinHalves_flag63, joinHalves_flag31, hhi, hlo, upperHalf_joinHalves, lowerHalf_joinHalves]

end Lines

/-- A strip line's row is well formed, and its halves are the line (R71, R80). -/
theorem decodeLine_reencodes (w : Word64) :
    (decodeLine w).wellFormed = true ∧ encode (decodeLine w) = (.stripLine, w) := by
  rw [← joinHalves_upper_lower w]
  cases hhi : (upperHalf w).getLsbD 31 <;> cases hlo : (lowerHalf w).getLsbD 31
  · rw [decodeLine_cont hhi hlo]
    exact ⟨by simp only [Instr.wellFormed, hhi, hlo, Bool.not_false, Bool.and_self], rfl⟩
  · rw [decodeLine_lastLo hhi hlo]
    exact ⟨by simp only [Instr.wellFormed, hhi, hlo, Bool.not_false, Bool.and_self], rfl⟩
  · rw [decodeLine_lastHi hhi hlo]
    exact ⟨by simp only [Instr.wellFormed, hhi, hlo, Bool.not_false, Bool.and_self], rfl⟩
  · rw [decodeLine_lastBoth hhi hlo]
    exact ⟨by simp only [Instr.wellFormed, hhi, hlo, Bool.and_self], rfl⟩

/-! ### ClusterWords -/

theorem clusterWord_eq_zero {f : BitVec 1} {p : Position} {sh : BitVec 3} {pid : PassthroughId} :
    clusterWord f p sh pid = 0#32 ↔ f = 0#1 ∧ p = 0#12 ∧ sh = 0#3 ∧ pid = 0#16 := by
  constructor
  · intro h
    have hf := clusterFlag_clusterWord f p sh pid
    have hp := clusterPosition_clusterWord f p sh pid
    have hsh := clusterShape_clusterWord f p sh pid
    have hpid := clusterId_clusterWord f p sh pid
    rw [h] at hf hp hsh hpid
    exact ⟨hf.symm, hp.symm, hsh.symm, hpid.symm⟩
  · rintro ⟨rfl, rfl, rfl, rfl⟩
    rfl

theorem clusterWord_ne_zero_of_shape (f : BitVec 1) (p : Position) {sh : BitVec 3} (pid : PassthroughId)
    (hsh : sh ≠ 0#3) : clusterWord f p sh pid ≠ 0#32 := by
  simp [clusterWord_eq_zero, hsh]

theorem decodeHalf_clusterWord {f : BitVec 1} {p : Position} {sh : BitVec 3} {pid : PassthroughId}
    (h : clusterWord f p sh pid ≠ 0#32) : decodeHalf (clusterWord f p sh pid) = decodeShape sh f p pid := by
  simp [decodeHalf, h]

/-- The one ClusterWord that CW.S0 cannot stand for is the no-hit word (R80). -/
theorem wellFormed_cwS0 {f : BitVec 1} {p : Position} {pid : PassthroughId} :
    (Instr.cwS0 f p pid).wellFormed = true ↔ clusterWord f p 0#3 pid ≠ 0#32 := by
  simp only [Instr.wellFormed, Bool.not_eq_true', Bool.eq_false_iff, ne_eq, Bool.and_eq_true, beq_iff_eq,
    clusterWord_eq_zero, true_and, and_assoc]

theorem shapeCodes (sh : BitVec 3) :
    sh = 0#3 ∨ sh = 1#3 ∨ sh = 2#3 ∨ sh = 3#3 ∨ sh = 4#3 ∨ sh = 5#3 ∨ sh = 6#3 ∨ sh = 7#3 := by
  revert sh; decide

/-- A shape's row is encoded with its own shape code (R73). -/
theorem encode_decodeShape (sh : BitVec 3) (f : BitVec 1) (p : Position) (pid : PassthroughId) :
    encode (decodeShape sh f p pid) = (.half, (clusterWord f p sh pid).setWidth 64) := by
  rcases shapeCodes sh with rfl | rfl | rfl | rfl | rfl | rfl | rfl | rfl <;> rfl

/-- A shape's row is well formed if its ClusterWord is not the no-hit word (R80). -/
theorem wellFormed_decodeShape {sh : BitVec 3} {f : BitVec 1} {p : Position} {pid : PassthroughId}
    (h : clusterWord f p sh pid ≠ 0#32) : (decodeShape sh f p pid).wellFormed = true := by
  rcases shapeCodes sh with rfl | hsh
  · exact wellFormed_cwS0.mpr h
  · rcases hsh with rfl | rfl | rfl | rfl | rfl | rfl | rfl <;> rfl

theorem decodeShape_ne_cwNohit (sh : BitVec 3) (f : BitVec 1) (p : Position) (pid : PassthroughId) :
    decodeShape sh f p pid ≠ .cwNohit := by
  rcases shapeCodes sh with rfl | rfl | rfl | rfl | rfl | rfl | rfl | rfl <;> nofun

theorem decodeHalf_eq_cwNohit {c : ClusterWord} : decodeHalf c = .cwNohit ↔ c = 0#32 := by
  unfold decodeHalf
  split
  · simp [*]
  · simp [*, decodeShape_ne_cwNohit]

/-- A shape's row other than the no-hit word is read back from its encoding. -/
theorem decode_encode_shape {sh : BitVec 3} {f : BitVec 1} {p : Position} {pid : PassthroughId}
    (h : clusterWord f p sh pid ≠ 0#32) :
    decode (encode (decodeShape sh f p pid)).1 (encode (decodeShape sh f p pid)).2 = .ok (decodeShape sh f p pid) := by
  rw [encode_decodeShape, Machine.decode_half, decodeHalf_clusterWord h]

/-- A ClusterWord's row is well formed, and its fields are the word (R73, R80). -/
theorem decodeHalf_reencodes (c : ClusterWord) :
    (decodeHalf c).wellFormed = true ∧ encode (decodeHalf c) = (.half, c.setWidth 64) := by
  by_cases hc : c = 0#32
  · subst hc
    exact ⟨rfl, rfl⟩
  · rw [← clusterWord_fields c] at hc ⊢
    rw [decodeHalf_clusterWord hc, encode_decodeShape]
    exact ⟨wellFormed_decodeShape hc, rfl⟩

/-! ### Records -/

/-- The bits of `{stripIndex[10:7]:4, row:1, stripIndex[6:0]:7}` (42_address_unroller.md R163). -/
theorem rollBack_bit (si : BitVec 12) (row : BitVec 1) {i : Nat} (hi : i < 12) :
    (rollBack si row).getLsbD i =
      if i < 7 then si.getLsbD i else if i < 8 then row.getLsbD 0 else si.getLsbD (i - 1) := by
  change BitVec.getLsbD (w := 4 + 1 + 7) (si.extractLsb' 7 4 ++ row ++ si.extractLsb' 0 7) i = _
  simp only [BitVec.getLsbD_append]
  interval_cases i <;> simp

/-- The bits of a strip index `{0:1, chip:4, strip:7}` (R161, R162). -/
theorem stripIndex_bit (chip : BitVec 4) (strip : BitVec 7) (i : Nat) :
    BitVec.getLsbD (w := 12) (0#1 ++ chip ++ strip) i = if i < 7 then strip.getLsbD i else chip.getLsbD (i - 7) := by
  change BitVec.getLsbD (w := 1 + 4 + 7) (0#1 ++ chip ++ strip) i = _
  simp only [BitVec.getLsbD_append]
  split
  · rfl
  · split
    · rfl
    · rw [BitVec.getLsbD_zero, BitVec.getLsbD_of_ge chip _ (by omega)]

/-- The row is bit 7 of a position (R163). -/
theorem rollBack_row (si : BitVec 12) (row : BitVec 1) : (rollBack si row).extractLsb' 7 1 = row := by
  apply BitVec.eq_of_getLsbD_eq
  intro i hi
  obtain rfl : i = 0 := by omega
  rw [BitVec.getLsbD_extractLsb', rollBack_bit si row (by decide)]
  rfl

/-- The other bits of a position are those of its strip index (R163). -/
theorem rollBack_stripIndex {si : BitVec 12} (row : BitVec 1) (h : si.getLsbD 11 = false) :
    0#1 ++ (rollBack si row).extractLsb' 8 4 ++ (rollBack si row).extractLsb' 0 7 = si := by
  apply BitVec.eq_of_getLsbD_eq (w := 12)
  intro i hi
  rw [stripIndex_bit, BitVec.getLsbD_extractLsb', BitVec.getLsbD_extractLsb']
  interval_cases i <;> simp +decide only [rollBack_bit, h, decide_true, decide_false, Bool.true_and,
    Bool.false_and, if_true, if_false]

theorem rollBack_fields (p : Position) :
    rollBack (0#1 ++ p.extractLsb' 8 4 ++ p.extractLsb' 0 7) (p.extractLsb' 7 1) = p := by
  apply BitVec.eq_of_getLsbD_eq
  intro i hi
  rw [rollBack_bit _ _ hi, stripIndex_bit, stripIndex_bit]
  simp only [BitVec.getLsbD_extractLsb']
  interval_cases i <;> simp

/-- `nStrips` tells the four sizes apart (43_encoder_packer.md R182). -/
theorem sizeOfNStrips_extract {size : BitVec 3} (h : 1 ≤ size.toNat ∧ size.toNat ≤ 4) :
    sizeOfNStrips (size.extractLsb' 0 2) = size := by
  revert size; decide

theorem extract_sizeOfNStrips (n : BitVec 2) : (sizeOfNStrips n).extractLsb' 0 2 = n := by
  revert n; decide

theorem sizeOfNStrips_bounds (n : BitVec 2) : 1 ≤ (sizeOfNStrips n).toNat ∧ (sizeOfNStrips n).toNat ≤ 4 := by
  revert n; decide

theorem DecodedHit.wellFormed_iff (h : DecodedHit) :
    h.wellFormed = true ↔ 1 ≤ h.size.toNat ∧ h.size.toNat ≤ 4 := by
  simp [DecodedHit.wellFormed]

/-- A hit of a legal size is read back from its record (R76, with the inverses of R163 and R182). -/
theorem decodeRecord_encodeRecordBits {h : DecodedHit} (last : Bool) (hwf : h.wellFormed = true) :
    decodeRecord (encodeRecordBits h last) = .ok (.encodeHit h last) := by
  have hsize := sizeOfNStrips_extract (h.wellFormed_iff.mp hwf)
  have h27 : (encodeRecordBits h last).getLsbD 27 = false := by
    rw [← Machine.encodeRecord_eq_bits, Machine.encodeRecord_bit27]
  have h31 : (encodeRecordBits h last).getLsbD 31 = last := by
    rw [← Machine.encodeRecord_eq_bits]; exact Machine.encodeRecord_last h last
  unfold decodeRecord
  rw [h27, h31]
  simp only [encodeRecordBits, recordWord_stripIndex, recordWord_row, recordWord_nStrips, recordWord_id, hsize,
    rollBack_fields]
  rfl

/-- A record that decodes is that of a hit of a legal size. -/
theorem decodeRecord_reencodes {r : Record} {i : Instr} (h : decodeRecord r = .ok i) :
    i.wellFormed = true ∧ encode i = (.record, r.setWidth 64) := by
  unfold decodeRecord at h
  split at h
  · cases h
  · rename_i h27
    cases h
    refine ⟨(DecodedHit.wellFormed_iff _).mpr (sizeOfNStrips_bounds _), ?_⟩
    have hsi : (r.extractLsb' 16 12).getLsbD 11 = false := by simpa using h27
    have hlast : BitVec.ofBool (r.getLsbD 31) = r.extractLsb' 31 1 := by
      apply BitVec.eq_of_getLsbD_eq
      intro i hi
      obtain rfl : i = 0 := by omega
      simp
    simp only [encode, encodeRecordBits, rollBack_row, rollBack_stripIndex _ hsi, extract_sizeOfNStrips, hlast,
      recordWord_fields]

/-! ### Packed words -/

theorem joinHalves_ne_sentinel {hi lo : BitVec 32} {k : Nat} (hk : k < 32)
    (h : hi.getLsbD k = false ∨ lo.getLsbD k = false) : joinHalves hi lo ≠ sentinel := by
  have ones : (BitVec.allOnes 32).getLsbD k = true := by simp only [BitVec.getLsbD_allOnes, hk, decide_true]
  intro e
  have eu : hi = BitVec.allOnes 32 := by rw [← upperHalf_joinHalves hi lo, e]; decide
  have el : lo = BitVec.allOnes 32 := by rw [← lowerHalf_joinHalves hi lo, e]; decide
  rw [eu, el, ones] at h
  exact h.elim nofun nofun

theorem decodePacked_pair {a b : Record} (ha : a.getLsbD 31 = false) :
    decodePacked (joinHalves a b) = .ok (.outPair a b) := by
  have hne : joinHalves a b ≠ sentinel := joinHalves_ne_sentinel (by decide) (.inl ha)
  simp only [decodePacked, if_neg hne, joinHalves_flag63, ha, if_true, upperHalf_joinHalves, lowerHalf_joinHalves]

theorem decodePacked_odd {r : Record} (hr : r.getLsbD 31 = true) :
    decodePacked (joinHalves r 0#32) = .ok (.outOdd r) := by
  have hne : joinHalves r 0#32 ≠ sentinel := joinHalves_ne_sentinel (k := 0) (by decide) (.inr rfl)
  simp only [decodePacked, if_neg hne, joinHalves_flag63, hr, Bool.true_eq_false, if_false, if_true,
    upperHalf_joinHalves, lowerHalf_joinHalves]

/-- A packed word that decodes is that of its row. -/
theorem decodePacked_reencodes {w : Word64} {i : Instr} (h : decodePacked w = .ok i) :
    i.wellFormed = true ∧ encode i = (.packed, w) := by
  unfold decodePacked at h
  split at h
  · rename_i hw
    cases h
    exact ⟨rfl, by rw [hw]; rfl⟩
  · split at h
    · rename_i h63
      cases h
      simp only [Instr.wellFormed, encode, upperHalf_flag, h63, joinHalves_upper_lower, Bool.not_false, and_self]
    · split at h
      · rename_i h63 hlo
        cases h
        have hw : joinHalves (upperHalf w) 0#32 = w := by rw [← hlo, joinHalves_upper_lower]
        exact ⟨by simpa only [Instr.wellFormed, upperHalf_flag, Bool.not_eq_false] using h63, by rw [encode, hw]⟩
      · cases h

/-! ### What the bits select -/

/-- The two flag bits alone select a strip line's row (R80). -/
theorem decodeLine_row (w : Word64) :
    (w.getLsbD 63 = false ∧ w.getLsbD 31 = false ↔ decodeLine w = .lineCont (upperHalf w) (lowerHalf w)) ∧
    (w.getLsbD 63 = true ∧ w.getLsbD 31 = false ↔ decodeLine w = .lineLastHi (upperHalf w) (lowerHalf w)) ∧
    (w.getLsbD 63 = false ∧ w.getLsbD 31 = true ↔ decodeLine w = .lineLastLo (upperHalf w) (lowerHalf w)) ∧
    (w.getLsbD 63 = true ∧ w.getLsbD 31 = true ↔ decodeLine w = .lineLastBoth (upperHalf w) (lowerHalf w)) := by
  unfold decodeLine
  cases w.getLsbD 63 <;> cases w.getLsbD 31 <;> simp

end Sys2Proof

namespace Sys2Proof.Machine

/-! ### What a step refuses -/

theorem holdBack_refused {s : State} {o : Host.Outcome State Fault Refusal} {r : Refusal} :
    holdBack s o = .refused r ↔ o = .refused r := by
  cases o with
  | next t => simp only [holdBack]; split <;> simp
  | fault | refused => rfl

theorem execStart_ne_undecodable (v : Nat) (s : State) : execStart v s ≠ .refused .undecodable := by
  unfold execStart
  split
  · nofun
  · split <;> nofun

theorem hostInput_ne_undecodable (i : HostInput) (s : State) : hostInput i s ≠ .refused .undecodable := by
  cases i with
  | configure cfg => simp only [hostInput]; split <;> nofun
  | supply | takeOutput | reset => nofun

/-- What a step selects always decodes: START on a presented frame, or the row of a transition that then fires
(R81). -/
theorem step_ne_undecodable (s : State) : step s ≠ .refused .undecodable := by
  unfold step
  split
  · rename_i slot bits hm
    rcases run_fires hm with ⟨v, rfl, rfl⟩ | ⟨i, t, hd, hx, -⟩
    · exact fun h => execStart_ne_undecodable v s.clock (holdBack_refused.mp h)
    · simp only [hd, hx, holdBack_refused, ne_eq]
      nofun
  · nofun
  · exact hostInput_ne_undecodable _ _
  · nofun
  · nofun

/-! ### The LAST indicator -/

/-- With an unbounded queue a strip line ends its module exactly if its LAST indicator is set (40_frame_parser.md R106,
R107). -/
theorem stripLine_phase_of_unbounded (w : Word64) {s : State} (hp : s.phase = .strip)
    (hc : s.cfg.queueCapacity = none) :
    (if lineLast w then (s.queueLine (upperHalf w) (lowerHalf w)).endLine
      else s.queueLine (upperHalf w) (lowerHalf w)).phase = if lineLast w then .flush else .strip := by
  rcases queueLine_spec (upperHalf w) (lowerHalf w) s (by simp [hp]) with ⟨q', -, e⟩ | ⟨q', hq, -⟩
  · rw [e]
    split
    · simp [State.endLine, hp]
    · exact hp
  · simp [pushLine_unbounded hc] at hq

/-! ### The words of a module's plain output -/

theorem plainOutput_nil : plainOutput [] = [] := rfl

theorem plainOutput_singleton (h : DecodedHit) : plainOutput [h] = [oddWord (encodeRecord h true)] := rfl

theorem plainOutput_cons_cons (g h : DecodedHit) (hs : List DecodedHit) :
    plainOutput (g :: h :: hs) =
      pairWord (encodeRecord g false) (encodeRecord h hs.isEmpty) :: plainOutput hs := by
  simp only [plainOutput, moduleRecords_cons, packRecords, List.isEmpty_cons]

/-- Word `j` of a plain output holds the records of hits `2j` and `2j + 1`, or that of the final hit alone
(43_encoder_packer.md R186). -/
theorem plainOutput_word {hs : List DecodedHit} {j : Nat} {w : Word64} (hw : (plainOutput hs)[j]? = some w) :
    (∃ g h last, 2 * j + 1 < hs.length ∧ w = pairWord (encodeRecord g false) (encodeRecord h last)) ∨
    (∃ g, 2 * j + 1 = hs.length ∧ w = oddWord (encodeRecord g true)) := by
  induction hs using List.twoStepInduction generalizing j with
  | nil => simp [plainOutput_nil] at hw
  | singleton g =>
    obtain ⟨rfl, rfl⟩ : j = 0 ∧ oddWord (encodeRecord g true) = w := by
      simpa [plainOutput_singleton, List.getElem?_singleton] using hw
    exact .inr ⟨g, rfl, rfl⟩
  | cons_cons g h hs ih =>
    rw [plainOutput_cons_cons] at hw
    cases j with
    | zero =>
      cases hw
      exact .inl ⟨g, h, hs.isEmpty, by simp, rfl⟩
    | succ j =>
      simp only [List.length_cons]
      rcases ih hw with ⟨g', h', last, hj, e⟩ | ⟨g', hj, e⟩
      · exact .inl ⟨g', h', last, by omega, e⟩
      · exact .inr ⟨g', by omega, e⟩

end Sys2Proof.Machine

namespace Sys2Proof

open Machine

/-! ### The obligations of 30_encoding.md -/

/-- Settles O2: for each row, its slot reads back the row's own fields. -/
theorem decodeEncodeAgree : Obligations.DecodeEncodeAgree := by
  intro i hwf
  cases i with
  | start v | modend | modcut | flush | frameEnd => exact decodeNoWord_eq_ok.mpr ⟨rfl, rfl⟩
  | hdr w | modhdr w | ftr w | outSentinel => rfl
  | lineCont hi lo =>
    simp only [Instr.wellFormed, Bool.and_eq_true, Bool.not_eq_true'] at hwf
    exact congrArg Except.ok (decodeLine_cont hwf.1 hwf.2)
  | lineLastHi hi lo =>
    simp only [Instr.wellFormed, Bool.and_eq_true, Bool.not_eq_true'] at hwf
    exact congrArg Except.ok (decodeLine_lastHi hwf.1 hwf.2)
  | lineLastLo hi lo =>
    simp only [Instr.wellFormed, Bool.and_eq_true, Bool.not_eq_true'] at hwf
    exact congrArg Except.ok (decodeLine_lastLo hwf.1 hwf.2)
  | lineLastBoth hi lo =>
    simp only [Instr.wellFormed, Bool.and_eq_true] at hwf
    exact congrArg Except.ok (decodeLine_lastBoth hwf.1 hwf.2)
  | cwNohit => rfl
  | cwS0 f p pid => exact decode_encode_shape (wellFormed_cwS0.mp hwf)
  | cwS1 f p pid => exact decode_encode_shape (clusterWord_ne_zero_of_shape f p (sh := 1#3) pid (by decide))
  | cwS2 f p pid => exact decode_encode_shape (clusterWord_ne_zero_of_shape f p (sh := 2#3) pid (by decide))
  | cwS3 f p pid => exact decode_encode_shape (clusterWord_ne_zero_of_shape f p (sh := 3#3) pid (by decide))
  | cwS4 f p pid => exact decode_encode_shape (clusterWord_ne_zero_of_shape f p (sh := 4#3) pid (by decide))
  | cwS5 f p pid => exact decode_encode_shape (clusterWord_ne_zero_of_shape f p (sh := 5#3) pid (by decide))
  | cwS6 f p pid => exact decode_encode_shape (clusterWord_ne_zero_of_shape f p (sh := 6#3) pid (by decide))
  | cwS7 f p pid => exact decode_encode_shape (clusterWord_ne_zero_of_shape f p (sh := 7#3) pid (by decide))
  | unroll p => exact decode_position p
  | encodeHit h last => exact (decode_record _).trans (decodeRecord_encodeRecordBits last hwf)
  | outPair a b => exact decodePacked_pair (by simpa [Instr.wellFormed] using hwf)
  | outOdd r => exact decodePacked_odd hwf

/-- Settles O3: slot by slot, the fields of the row that is read make up the slot's bits. -/
theorem decodedBitsReencode : Obligations.DecodedBitsReencode := by
  intro slot w i h
  cases slot with
  | frameStart v | regionEnd | regionCut | moduleEnd | frameEnd =>
    obtain ⟨rfl, rfl⟩ := decodeNoWord_eq_ok.mp h
    exact ⟨rfl, rfl⟩
  | header | moduleHeader | footer => cases h; exact ⟨rfl, rfl⟩
  | stripLine => cases h; exact decodeLine_reencodes w
  | half =>
    obtain ⟨hd, hw⟩ := narrow_eq_ok (n := 32) h
    cases hd
    simpa only [hw] using decodeHalf_reencodes (w.setWidth 32)
  | position =>
    obtain ⟨hd, hw⟩ := narrow_eq_ok (n := 12) h
    cases hd
    exact ⟨rfl, by rw [encode, hw]⟩
  | record =>
    obtain ⟨hd, hw⟩ := narrow_eq_ok (n := 32) h
    simpa only [hw] using decodeRecord_reencodes hd
  | packed => exact decodePacked_reencodes h

/-- Settles O38: a pair word's first record is not final, an odd word's is, and bit 27 of every record is 0
(`encodeRecord_bit27`). -/
theorem packedWordProperties : Obligations.PackedWordProperties := by
  intro hs j w hw
  rcases plainOutput_word hw with ⟨g, h, last, hj, rfl⟩ | ⟨g, hj, rfl⟩
  · have h63 : (pairWord (encodeRecord g false) (encodeRecord h last)).getLsbD 63 = false := by
      rw [pairWord, joinHalves_flag63, ← recordLast, encodeRecord_last]
    refine ⟨?_, ?_, ?_, ?_, ?_⟩
    · exact (joinHalves_bit _ _ 59).trans (encodeRecord_bit27 g false)
    · exact (joinHalves_bit _ _ 27).trans (encodeRecord_bit27 h last)
    · exact joinHalves_ne_sentinel (by decide) (.inl (encodeRecord_bit27 g false))
    · rw [h63]
      exact ⟨nofun, fun hodd => by omega⟩
    · rw [h63]
      nofun
  · refine ⟨?_, ?_, ?_, ?_, ?_⟩
    · exact (joinHalves_bit _ _ 59).trans (encodeRecord_bit27 g true)
    · exact joinHalves_bit _ _ 27
    · exact joinHalves_ne_sentinel (by decide) (.inl (encodeRecord_bit27 g true))
    · rw [oddWord, joinHalves_flag63, ← recordLast, encodeRecord_last]
      exact ⟨fun _ => by omega, fun _ => rfl⟩
    · exact fun _ => lowerHalf_joinHalves _ _

/-- Settles O1: the decoder evaluates on each of the twelve words. -/
theorem writtenWordsDecode : Obligations.WrittenWordsDecode :=
  ⟨rfl, rfl, rfl, rfl, rfl, rfl, rfl, rfl, rfl, rfl, rfl, rfl⟩

/-- Settles O4: decoding is total on the two input formats, and what a step selects decodes too
(`step_ne_undecodable`). -/
theorem noWordIsRefusedForItsBits : Obligations.NoWordIsRefusedForItsBits :=
  ⟨fun w => ⟨decodeLine w, rfl⟩, fun c => ⟨decodeHalf c, decode_half c⟩, step_ne_undecodable⟩

/-- Settles O5: the flags of a strip line (`decodeLine_row`), the zero test and the shape code of a ClusterWord. -/
theorem bitsSelectTheRow : Obligations.BitsSelectTheRow := by
  refine ⟨fun w => ?_, fun c => ?_, fun f p sh pid hne => ?_⟩
  · simp only [decode, Except.ok.injEq]
    exact decodeLine_row w
  · rw [decode_half, Except.ok.injEq, decodeHalf_eq_cwNohit]
  · rw [decode_half, decodeHalf_clusterWord hne]

/-- Settles O6: the flag is no field of `decodeOne`, and a line's row ends the module by its LAST indicator
(`exec_decodeLine`). -/
theorem lastIndicatorAndHalfFlags : Obligations.LastIndicatorAndHalfFlags := by
  refine ⟨fun w => ?_, fun w => rfl, fun p sh pid => ?_, fun p sh pid => ?_, fun w s hp hr hc => ?_⟩
  · rw [lineLast, halfFlag, halfFlag, upperHalf_flag, lowerHalf_flag]
  · simp only [decodeOne, clusterShape_clusterWord, clusterPosition_clusterWord, clusterId_clusterWord]
  · simp [clusterWord_eq_zero]
  · exact ⟨decodeLine w, _, rfl, exec_decodeLine hp hr, stripLine_phase_of_unbounded w hp hc⟩

end Sys2Proof
end

section
/-!
SUPPORT. The module's end (spec/40_frame_parser.md R109, R113): FLUSH run to its end from any drained part of a module,
and its obligations.
-/

namespace Sys2Proof.Machine

/-! ### FLUSH run to its end -/

/-- The words that a module in FLUSH still puts in the output, from its streaming registers and the rest of its queue: with
the check on the held-back words leave with the rest, or the sentinel replaces them (44_overlap_check.md R216). -/
def State.flushWords (s : State) : List Word64 :=
  let rest := (streamPack s.held (moduleRecords (decodeQueue s.q))).2
  match s.cfg.overlapCheck with
  | .off => rest
  | .on => if s.ovf || trackFrom .on s.prev (decodeQueue s.q) then [sentinel] else s.mbuf ++ rest

/-- From a FLUSH entry these words are `ModuleOutput(q)` (R214). -/
theorem flushWords_of_clear {s : State} (hh : s.held = none) (hp : s.prev = none) (ho : s.ovf = false)
    (hm : s.mbuf = []) : s.flushWords = moduleOutput s.cfg.overlapCheck s.q := by
  unfold State.flushWords moduleOutput
  rw [hh, hp, ho, hm, streamPack_module, trackFrom_none]
  cases s.cfg.overlapCheck <;> simp

/-- T7 on a queue of nonzero ClusterWords and then T8, in full. -/
theorem endModule_drain {s : State} (hnz : ∀ c ∈ s.q, c ≠ 0#32) :
    (s.drain s.q).endModule =
      { s with
        out := s.out ++ s.flushWords, q := [], phase := .modhdr, held := none, prev := none, ovf := false, mbuf := []
        unrolled := Unrolled.idle } := by
  obtain ⟨-, hrd, hvs, hfe, hst, hcfg, hin, htk, hsch⟩ := drain_keeps s.q s
  obtain ⟨hpacked, hovf, hout, -⟩ := drain_spec s.q s rfl hnz
  rw [endModule_eq]
  simp only [hrd, hvs, hfe, hst, hcfg, hin, htk, hsch, hovf, State.mk.injEq, true_and, and_true]
  cases hc : s.cfg.overlapCheck with
  | off => simpa [State.flushWords, State.packed, hcfg, hc] using hpacked
  | on =>
    have hmbuf : (s.drain s.q).mbuf = s.mbuf ++ (streamPack s.held (moduleRecords (decodeQueue s.q))).2 := by
      simpa [State.packed, hcfg, hc] using hpacked
    simp only [State.flushWords, hc, hout hc, hmbuf]
    split <;> rfl

/-! ### The row FLUSH -/

theorem exec_flush {s : State} (hp : s.phase = .flush) : exec .flush s = .next (s.drain s.q).endModule :=
  if_pos hp

theorem exec_flush_drained {s : State} (hp : s.phase = .flush) (hq : s.q = []) : exec .flush s = .next s.endModule := by
  rw [exec_flush hp, hq, State.drain]

/-- Settles O42: draining a queue packs its records and tracks its hits one by one (`drain_spec`), which from clear
registers is `ModuleOutput(q)`, and T8 releases it. -/
theorem flushEmitsModuleOutput : Obligations.FlushEmitsModuleOutput := by
  rintro s ⟨hp, hh, hpr, ho, hm⟩ hnz
  rw [exec_flush hp, endModule_drain hnz, flushWords_of_clear hh hpr ho hm]
  simp only [hh, hpr, ho, hm]

/-- Settles O43: the head's row is T7 on it (`exec_decodeHalf`), and draining the queue begins with T7 on its head. -/
theorem flushRunsTheQueueInTurn : Obligations.FlushRunsTheQueueInTurn := by
  intro s c cs hp hq
  have htail : (s.takeCluster c).q = cs := by simp [hq]
  refine ⟨decodeHalf c, s.takeCluster c, decode_half c, exec_decodeHalf hp hq, htail, ?_⟩
  rw [exec_flush hp, exec_flush ((takeCluster_phase c s).trans hp), htail, hq, State.drain]

/-- Settles O41: T8 with no sentinel to emit. -/
theorem drainedModuleReleasesItsWords : Obligations.DrainedModuleReleasesItsWords := by
  intro s hp hq hovf
  rw [exec_flush_drained hp hq, endModule_eq]
  cases hc : s.cfg.overlapCheck with
  | off => simp [hq]
  | on => simp [hq, hovf hc]

end Sys2Proof.Machine
end

section
/-!
SUPPORT. The Frame Parser's rows (spec/40_frame_parser.md R101 to R111): what each does where its phase and guard hold, and
that it is refused where they do not.
-/

namespace Sys2Proof.Machine

/-! ### Strip lines -/

/-- A line whose nonzero halves fit the queue is queued whole (60_exceptions.md R233). -/
theorem pushLine_of_room {cfg : Cfg} {q : List ClusterWord} {w : Word64}
    (h : ∀ n ∈ cfg.queueCapacity, q.length + (lineClusters w).length ≤ n) :
    pushLine cfg q w = some (q ++ lineClusters w) := by
  unfold pushLine
  generalize lineClusters w = cs at h ⊢
  induction cs generalizing q with
  | nil => simp
  | cons c cs ih =>
    have hfull : queueFull cfg q = false := by
      cases hc : cfg.queueCapacity with
      | none => simp [queueFull, hc]
      | some n =>
        have := h n hc
        simp only [List.length_cons] at this
        simp only [queueFull, hc, beq_eq_false_iff_ne]
        omega
    have ih := ih (q := q ++ [c]) fun n hn => by
      have := h n hn
      simp only [List.length_cons, List.length_append, List.length_nil] at this ⊢
      omega
    simpa [List.foldlM_cons, pushOne, hfull] using ih

/-- A line is queued as `pushLine` says where that does not overflow. -/
theorem queueLine_of_pushLine {hi lo : ClusterWord} {s : State} {q' : List ClusterWord} (hp : s.phase ≠ .fault)
    (h : pushLine s.cfg s.q (joinHalves hi lo) = some q') : s.queueLine hi lo = { s with rd := s.rd + 1, q := q' } := by
  rcases queueLine_spec hi lo s hp with ⟨q'', hq, e⟩ | ⟨q'', hq, -⟩
  · obtain rfl : q'' = q' := Option.some.inj (hq.symm.trans h)
    exact e
  · simp [hq] at h

theorem endLine_of_running {s : State} (hp : s.phase ≠ .fault) : s.endLine = s.enterFlush := if_neg hp

/-! ### The obligations of 40_frame_parser.md about single rows -/

/-- Settles O9: START is admitted by its two guards, and the length check is `startFrame`'s. -/
theorem startClearsAndChecksLength : Obligations.StartClearsAndChecksLength := by
  intro v s hp hfit
  have hexec : exec (.start v) s = .next (s.startFrame v) := by simp [exec, execStart, hp, hfit]
  exact ⟨fun hv => by rw [hexec, startFrame_short hv], fun hv => by rw [hexec, startFrame_admitted hv]⟩

/-- Settles O14: T4's guard holds. -/
theorem moduleRegionEnds : Obligations.ModuleRegionEnds :=
  fun _ hp hr => if_pos ⟨hp, hr⟩

/-- Settles O15: T3's guard holds. -/
theorem moduleHeaderIsCopied : Obligations.ModuleHeaderIsCopied :=
  fun _ _ hp hr => if_pos ⟨hp, hr⟩

/-- Settles O16: a line with room is queued whole, and the three LAST rows then enter FLUSH. -/
theorem stripLineQueuesItsHalves : Obligations.StripLineQueuesItsHalves := by
  intro hi lo s hp hr hroom
  have hhalves : lineClusters (joinHalves hi lo) = [hi, lo].filter (· ≠ 0#32) := by
    rw [lineClusters, upperHalf_joinHalves, lowerHalf_joinHalves]
  have hpush : pushLine s.cfg s.q (joinHalves hi lo) = some (s.q ++ [hi, lo].filter (· ≠ 0#32)) := by
    rw [← hhalves] at hroom ⊢
    exact pushLine_of_room hroom
  have hqueue := queueLine_of_pushLine (by simp [hp]) hpush
  have hlast : (s.queueLine hi lo).endLine = (s.queueLine hi lo).enterFlush :=
    endLine_of_running (by simp [hqueue, hp])
  rw [hqueue] at hlast
  refine ⟨(if_pos ⟨hp, hr⟩).trans (congrArg Host.Outcome.next hqueue), fun i hi => ?_⟩
  simp only [List.mem_cons, List.not_mem_nil, or_false] at hi
  rcases hi with rfl | rfl | rfl <;> exact (if_pos ⟨hp, hr⟩).trans (congrArg Host.Outcome.next (hqueue ▸ hlast))

/-- Settles O18: T6's guard holds, and FLUSH is entered as after a LAST line. -/
theorem moduleIsCutAtTheFooter : Obligations.ModuleIsCutAtTheFooter :=
  fun _ hp hr => if_pos ⟨hp, hr⟩

/-- Settles O19: T9's guard holds. -/
theorem footerWordsAreCopied : Obligations.FooterWordsAreCopied :=
  fun _ _ hp hr => if_pos ⟨hp, hr⟩

/-- Settles O20: T10's guard holds, whatever was emitted. -/
theorem frameCompletes : Obligations.FrameCompletes :=
  fun _ hp hr => if_pos ⟨hp, hr⟩

/-- Settles O21: each row asks for its transition's phase and guard before it does anything. -/
theorem disabledRowsAreRefused : Obligations.DisabledRowsAreRefused := by
  intro s w hi lo f p pid h last a b
  refine ⟨?hdr, ?modhdr, ?modend, ?lines, ?modcut, ?flush, ?ftr, ?frameEnd, ?clusters, ?encodeHit, ?outPair, ?outOdd,
    ?outSentinel⟩
  case lines =>
    intro hg i hi
    simp only [List.mem_cons, List.not_mem_nil, or_false] at hi
    rcases hi with rfl | rfl | rfl | rfl <;> exact if_neg hg
  case clusters =>
    intro hg i hi
    simp only [List.mem_cons, List.not_mem_nil, or_false] at hi
    rcases hi with rfl | rfl | rfl | rfl | rfl | rfl | rfl | rfl <;> exact if_neg hg
  all_goals exact fun hg => if_neg hg

end Sys2Proof.Machine
end

section
/-!
SUPPORT. What a step selects (spec/40_frame_parser.md R113): the decoded instruction of the next move, and in each phase the
row of the enabled transition.
-/

namespace Sys2Proof.Machine

/-! ### The next move and the host's schedule -/

theorem nextMove_of_due {s : State} {a : HostAct} {es : List HostEvent} (h : s.schedule = ⟨0, a⟩ :: es) :
    nextMove s = actMove a := by
  simp [nextMove, h]

theorem clock_of_due {s : State} {a : HostAct} {es : List HostEvent} (h : s.schedule = ⟨0, a⟩ :: es) :
    s.clock = { s with schedule := es } := by
  simp [State.clock, h]

theorem nextMove_of_later {s : State} {n : Nat} {a : HostAct} {es : List HostEvent}
    (h : s.schedule = ⟨n + 1, a⟩ :: es) : nextMove s = fetch s := by
  simp [nextMove, h]

theorem clock_of_later {s : State} {n : Nat} {a : HostAct} {es : List HostEvent} (h : s.schedule = ⟨n + 1, a⟩ :: es) :
    s.clock = { s with schedule := ⟨n, a⟩ :: es } := by
  simp [State.clock, h]

theorem nextMove_of_nil {s : State} (h : s.schedule = []) : nextMove s = fetch s := by
  simp [nextMove, h]

theorem clock_of_nil {s : State} (h : s.schedule = []) : s.clock = s := by
  simp [State.clock, h]

/-! ### A step that runs an instruction -/

theorem holdBack_of_taking {s : State} (h : s.taking = true) (o : Host.Outcome State Fault Refusal) :
    holdBack s o = o := by
  cases o <;> simp [holdBack, h]

theorem step_of_run {s : State} {slot : Slot} {w : Word64} {i : Instr} (hm : nextMove s = .run slot w)
    (hd : decode slot w = .ok i) : step s = holdBack s.clock (exec i s.clock) := by
  simp [step, hm, hd]

theorem step_of_run_taking {s : State} {slot : Slot} {w : Word64} {i : Instr} (ht : s.taking = true)
    (hm : nextMove s = .run slot w) (hd : decode slot w = .ok i) : step s = exec i s.clock := by
  rw [step_of_run hm hd, holdBack_of_taking ((State.clock_taking s).trans ht)]

/-- Where no act of the host is to come and the host takes words, the enabled transition's row is the step. -/
theorem step_of_fetch {s : State} {slot : Slot} {w : Word64} {i : Instr} (hu : s.undisturbed)
    (hf : fetch s = .run slot w) (hd : decode slot w = .ok i) : step s = exec i s := by
  obtain ⟨hsch, ht⟩ := hu
  rw [step_of_run_taking ht ((nextMove_of_nil hsch).trans hf) hd, clock_of_nil hsch]

/-! ### The enabled transition -/

section Region

variable {limit : Nat} {slot : Slot} {atEnd : Move} {s : State}

theorem inRegion_word {w : Word64} (hr : s.rd < limit) (hw : s.input[s.rd]? = some w) :
    inRegion limit slot atEnd s = .run slot w := by
  simp only [inRegion, hr, if_true, readWord, hw]

theorem inRegion_end (hr : s.rd = limit) : inRegion limit slot atEnd s = atEnd := by
  simp [inRegion, hr]

end Region

section Fetch

variable {s : State}

theorem fetch_hdr (hp : s.phase = .hdr) : fetch s = inRegion s.cfg.headerSize .header .headerEnd s := by
  simp only [fetch, hp]

theorem fetch_modhdr (hp : s.phase = .modhdr) :
    fetch s = inRegion s.fe .moduleHeader (.run .regionEnd 0#64) s := by
  simp only [fetch, hp]

theorem fetch_strip (hp : s.phase = .strip) : fetch s = inRegion s.fe .stripLine (.run .regionCut 0#64) s := by
  simp only [fetch, hp]

theorem fetch_flush_cons {c : ClusterWord} {cs : List ClusterWord} (hp : s.phase = .flush) (hq : s.q = c :: cs) :
    fetch s = .run .half (c.setWidth 64) := by
  simp only [fetch, hp, hq]

theorem fetch_flush_nil (hp : s.phase = .flush) (hq : s.q = []) :
    fetch s = if s.cfg.overlapCheck = .on ∧ s.ovf = true then .run .packed sentinel else .run .moduleEnd 0#64 := by
  simp only [fetch, hp, hq]

theorem fetch_ftr (hp : s.phase = .ftr) : fetch s = inRegion s.vs .footer (.run .frameEnd 0#64) s := by
  simp only [fetch, hp]

theorem fetch_presentable (hp : s.phase.presentable = true) : fetch s = .wait := by
  unfold fetch
  cases h : s.phase with
  | idle | done | errLen | fault => rfl
  | hdr | modhdr | strip | flush | ftr => simp [h, Phase.presentable] at hp

end Fetch

/-- T2 (R102). -/
theorem step_headerEnd {s : State} (hu : s.undisturbed) (hp : s.phase = .hdr) (hr : s.rd = s.cfg.headerSize) :
    step s = .next { s with phase := .modhdr } := by
  have hm : nextMove s = .headerEnd := by rw [nextMove_of_nil hu.1, fetch_hdr hp, inRegion_end hr]
  simp only [step, hm, clock_of_nil hu.1]
  rfl

/-- The end of a drained module is T8 whichever of its two rows the step selects (R113, 44_overlap_check.md R213). -/
theorem step_moduleEnd {s : State} (hu : s.undisturbed) (hp : s.phase = .flush) (hq : s.q = []) :
    step s = exec .flush s := by
  have hf := fetch_flush_nil hp hq
  split at hf
  · rename_i hovf
    have hrow : exec .outSentinel s = .next s.endModule := if_pos ⟨hp, hq, hovf⟩
    rw [step_of_fetch (i := .outSentinel) hu hf rfl, hrow, exec_flush_drained hp hq]
  · exact step_of_fetch hu hf rfl

/-! ### The obligations of 40_frame_parser.md about a step -/

/-- Settles O45: `holdBack` is what stands between an instruction and its step. -/
theorem stepRunsTheDecodedInstruction : Obligations.StepRunsTheDecodedInstruction := by
  intro s slot w i hm hd
  refine ⟨fun ht => step_of_run_taking ht hm hd, fun ht t hx => ?_⟩
  rw [step_of_run hm hd, hx]
  simp only [holdBack, State.clock_taking, State.clock_out, ht, true_and]
  exact ⟨fun hle => if_neg (Nat.not_lt.mpr hle), fun hlt => if_pos hlt⟩

/-- Settles O13: T1 is the row HDR, and T2 a move of its own. -/
theorem headerWordsAreCopied : Obligations.HeaderWordsAreCopied :=
  ⟨fun _ _ hp hr => if_pos ⟨hp, hr⟩, fun _ => step_headerEnd⟩

/-- Settles O46: phase by phase, what `fetch` selects decodes to the row of the transition. -/
theorem stepFiresTheEnabledTransition : Obligations.StepFiresTheEnabledTransition := by
  refine ⟨fun s v es hsch ht => ?_, fun s w hu hw => ⟨fun hp hr => ?_, fun hp hr => ?_, fun hp hr => ?_, fun hp hr => ?_⟩,
    fun s hu => ⟨step_headerEnd hu, fun hp hr => ?_, fun hp hr => ?_, fun c cs hp hq => ?_, step_moduleEnd hu,
      fun hp hr => ?_⟩⟩
  · rw [step_of_run_taking ht (nextMove_of_due hsch) rfl, clock_of_due hsch]
  · exact step_of_fetch hu ((fetch_hdr hp).trans (inRegion_word hr hw)) rfl
  · exact step_of_fetch hu ((fetch_modhdr hp).trans (inRegion_word hr hw)) rfl
  · exact ⟨decodeLine w, rfl, step_of_fetch hu ((fetch_strip hp).trans (inRegion_word hr hw)) rfl⟩
  · exact step_of_fetch hu ((fetch_ftr hp).trans (inRegion_word hr hw)) rfl
  · exact step_of_fetch hu ((fetch_modhdr hp).trans (inRegion_end hr)) rfl
  · exact step_of_fetch hu ((fetch_strip hp).trans (inRegion_end hr)) rfl
  · exact ⟨decodeHalf c, decode_half c, step_of_fetch hu (fetch_flush_cons hp hq) (decode_half c)⟩
  · exact step_of_fetch hu ((fetch_ftr hp).trans (inRegion_end hr)) rfl

end Sys2Proof.Machine
end

section
/-!
SUPPORT. The functional definition of a frame (spec/40_frame_parser.md R100): the order of its output (R112) and the
independence of its modules (R115).
-/

namespace Sys2Proof.Machine

theorem prepend_prepend (ws vs : List Word64) (r : FrameResult) :
    (r.prepend vs).prepend ws = r.prepend (ws ++ vs) := by
  simp [FrameResult.prepend]

/-- Words that close the open module, if there is one, and every module they begin leave nothing behind for the words after
them. -/
theorem moduleRegion_append {cfg : Cfg} (m : Option (List ClusterWord)) (before after : List Word64)
    (hclosed : regionClosed m.isSome before = true) (hok : (moduleRegion cfg m before).status = .ok) :
    moduleRegion cfg m (before ++ after) = (moduleRegion cfg none after).prepend (moduleRegion cfg m before).out := by
  induction m, before using moduleRegion.induct cfg with
  | case1 => rfl
  | case2 q => cases hclosed
  | case3 w ws ih =>
    rw [List.cons_append, moduleRegion, ih hclosed hok, prepend_prepend]
    rfl
  | case4 q w ws hq => simp [moduleRegion, hq] at hok
  | case5 q w ws q' hq hl ih =>
    have hline (vs : List Word64) : moduleRegion cfg (some q) (w :: vs) =
        (moduleRegion cfg none vs).prepend (moduleOutput cfg.overlapCheck q') := by
      simp [moduleRegion, hq, hl]
    rw [hline] at hok
    rw [List.cons_append, hline, hline, ih (by simpa [regionClosed, hl] using hclosed) hok, prepend_prepend]
    rfl
  | case6 q w ws q' hq hl ih =>
    have hline (vs : List Word64) : moduleRegion cfg (some q) (w :: vs) = moduleRegion cfg (some q') vs := by
      simp [moduleRegion, hq, hl]
    rw [hline] at hok
    rw [List.cons_append, hline, hline, ih (by simpa [regionClosed, hl] using hclosed) hok]

/-! ### The obligations of 40_frame_parser.md about a frame's output -/

/-- Settles O57: a module region that completes emits its modules in order (`moduleRegion_out_of_ok`). -/
theorem outputOrderIsTheContract : Obligations.OutputOrderIsTheContract :=
  fun _ _ h => frameResult_out_of_ok h

/-- Settles O60: no module is open before the words nor after them. -/
theorem modulesDoNotInteract : Obligations.ModulesDoNotInteract :=
  fun _ before after hclosed hok => moduleRegion_append none before after hclosed hok

end Sys2Proof.Machine
end

section
/-!
SUPPORT. The step machine against the functional definition of a frame (spec/40_frame_parser.md R100, R113). `State.outcome`
is the result that a state still leads to; every step of a frame keeps it and brings the frame nearer to its end, whenever
the host supplies the words.
-/

namespace Sys2Proof.Machine

/-! ### A module region read from some word on -/

theorem addFooter_prepend (ws footer : List Word64) (r : FrameResult) :
    (r.prepend ws).addFooter footer = (r.addFooter footer).prepend ws := by
  unfold FrameResult.addFooter
  rw [prepend_status]
  split
  · simp [FrameResult.prepend]
  · rfl

/-- The result of a frame of words `ws` whose module region is read from index `rd` on, after the words `out`; `m` is the open
module's queue. -/
def regionResult (cfg : Cfg) (ws : List Word64) (fe : Nat) (m : Option (List ClusterWord)) (rd : Nat)
    (out : List Word64) : FrameResult :=
  ((moduleRegion cfg m ((ws.take fe).drop rd)).addFooter (ws.drop fe)).prepend out

/-- The next word of a region. -/
theorem drop_take_of_word {ws : List Word64} {limit i : Nat} {w : Word64} (hi : i < limit) (hw : ws[i]? = some w) :
    (ws.take limit).drop i = w :: (ws.take limit).drop (i + 1) := by
  have hword : (ws.take limit)[i]? = some w := by rw [List.getElem?_take_of_lt hi, hw]
  obtain ⟨hlt, rfl⟩ := List.getElem?_eq_some_iff.mp hword
  exact List.drop_eq_getElem_cons hlt

section RegionResult

variable {cfg : Cfg} {ws : List Word64} {fe rd : Nat} {w : Word64} {q : List ClusterWord} (out : List Word64)

theorem regionResult_header (hr : rd < fe) (hw : ws[rd]? = some w) :
    regionResult cfg ws fe none rd out = regionResult cfg ws fe (some []) (rd + 1) (out ++ [w]) := by
  rw [regionResult, drop_take_of_word hr hw, moduleRegion, addFooter_prepend, prepend_prepend]
  rfl

/-- A strip line that fits the queue (R106, R107). -/
theorem regionResult_line {q' : List ClusterWord} (hr : rd < fe) (hw : ws[rd]? = some w)
    (hq : pushLine cfg q w = some q') :
    regionResult cfg ws fe (some q) rd out =
      if lineLast w then regionResult cfg ws fe none (rd + 1) (out ++ moduleOutput cfg.overlapCheck q')
      else regionResult cfg ws fe (some q') (rd + 1) out := by
  rw [regionResult, drop_take_of_word hr hw]
  simp only [moduleRegion, hq]
  split
  · rw [addFooter_prepend, prepend_prepend]
    rfl
  · rfl

theorem regionResult_overflow (hr : rd < fe) (hw : ws[rd]? = some w) (hq : pushLine cfg q w = none) :
    regionResult cfg ws fe (some q) rd out = { status := .queueOverflow, out := out } := by
  rw [regionResult, drop_take_of_word hr hw]
  simp [moduleRegion, hq, FrameResult.addFooter, FrameResult.prepend]

theorem regionResult_end : regionResult cfg ws fe none fe out = { status := .ok, out := out ++ ws.drop fe } := by
  simp [regionResult, moduleRegion, FrameResult.addFooter, FrameResult.prepend]

/-- A module still open at the footer start ends there (R108). -/
theorem regionResult_cut :
    regionResult cfg ws fe (some q) fe out = regionResult cfg ws fe none fe (out ++ moduleOutput cfg.overlapCheck q) := by
  rw [regionResult_end]
  simp [regionResult, moduleRegion, FrameResult.addFooter, FrameResult.prepend]

end RegionResult

/-! ### The result that a state leads to -/

/-- The result to which the machine comes from `s` in a frame of words `ws`. -/
def State.outcome (ws : List Word64) (s : State) : FrameResult :=
  match s.phase with
  | .hdr =>
    regionResult s.cfg ws s.fe none s.cfg.headerSize (s.out ++ (ws.take s.cfg.headerSize).drop s.rd)
  | .modhdr => regionResult s.cfg ws s.fe none s.rd s.out
  | .strip => regionResult s.cfg ws s.fe (some s.q) s.rd s.out
  | .flush => regionResult s.cfg ws s.fe none s.rd (s.out ++ s.flushWords)
  | .ftr => { status := .ok, out := s.out ++ ws.drop s.rd }
  | .idle | .done | .errLen | .fault => { status := s.status, out := s.out }

/-- START leads to `Frame` (R101). -/
theorem startFrame_outcome (ws : List Word64) (s : State) :
    (s.startFrame ws.length).outcome ws = frameResult s.cfg ws := by
  rcases Nat.lt_or_ge ws.length (s.cfg.headerSize + s.cfg.footerSize) with hv | hv
  · rw [startFrame_short hv, frameResult, if_pos hv]
    rfl
  · rw [startFrame_admitted hv, frameResult_admitted hv]
    rfl

/-- T5 on a line that fits the queue. -/
theorem stripLine_of_pushLine {w : Word64} {s : State} {q' : List ClusterWord} (hp : s.phase = .strip)
    (hq : pushLine s.cfg s.q w = some q') :
    (if lineLast w then (s.queueLine (upperHalf w) (lowerHalf w)).endLine
      else s.queueLine (upperHalf w) (lowerHalf w)) =
    if lineLast w then State.enterFlush { s with rd := s.rd + 1, q := q' } else { s with rd := s.rd + 1, q := q' } := by
  rw [← joinHalves_upper_lower w] at hq
  have hqueue := queueLine_of_pushLine (by simp [hp]) hq
  rw [hqueue, endLine_of_running (by simp [hp])]

/-- FLUSH is entered with all of `ModuleOutput(q)` still to come. -/
theorem enterFlush_flushWords (s : State) : s.enterFlush.flushWords = moduleOutput s.cfg.overlapCheck s.q :=
  flushWords_of_clear rfl rfl rfl rfl

/-- T7 leaves the module's words the same, some of them now packed. -/
theorem takeCluster_flushWords {c : ClusterWord} {cs : List ClusterWord} {s : State} (hq : s.q = c :: cs)
    (hnz : ∀ c ∈ s.q, c ≠ 0#32) :
    (s.takeCluster c).out ++ (s.takeCluster c).flushWords = s.out ++ s.flushWords := by
  have htail : (s.takeCluster c).q = cs := by simp [hq]
  have hdrain : (s.takeCluster c).drain (s.takeCluster c).q = s.drain s.q := by rw [htail, hq, State.drain]
  have hrest := endModule_drain (s := s.takeCluster c) fun d hd =>
    hnz d (hq ▸ List.mem_cons_of_mem c (htail ▸ hd))
  rw [hdrain, endModule_drain hnz] at hrest
  exact (congrArg State.out hrest).symm

/-- T8 emits the module's words. -/
theorem endModule_out {s : State} (hq : s.q = []) : s.endModule.out = s.out ++ s.flushWords := by
  have h := endModule_drain (s := s) (by simp [hq])
  rw [hq, State.drain] at h
  exact congrArg State.out h

/-- No transition changes the result, whichever of the frame's words have been supplied. -/
theorem Fires.outcome_kept {s t : State} {ws : List Word64} (hf : Fires s t) (hi : s.Inv) (hlen : s.vs = ws.length)
    (hin : ∀ w, s.input[s.rd]? = some w → ws[s.rd]? = some w) : t.outcome ws = s.outcome ws := by
  obtain ⟨-, -, ⟨hnz, -⟩, -⟩ := hi
  cases hf with
  | t1 w hp hr hw => simp [State.outcome, hp, drop_take_of_word hr (hin w hw)]
  | t2 hp hr => simp [State.outcome, hp, hr]
  | t3 w hp hr hw => simp [State.outcome, hp, regionResult_header _ hr (hin w hw)]
  | t4 hp hr => simp [State.outcome, hp, hr, regionResult_end]
  | t5 w hp hr hw =>
    have hw := hin w hw
    cases hq : pushLine s.cfg s.q w with
    | none =>
      rcases stripLine_cases w hp with ⟨q', hq', -⟩ | ⟨q', -, -, e⟩
      · simp [hq] at hq'
      · rw [e]
        simp [State.outcome, hp, regionResult_overflow _ hr hw hq]
    | some q' =>
      rw [stripLine_of_pushLine hp hq]
      split
      · rename_i hl
        simp [State.outcome, hp, regionResult_line _ hr hw hq, hl, enterFlush_flushWords]
      · rename_i hl
        simp [State.outcome, hp, regionResult_line _ hr hw hq, hl]
  | t6 hp hr => simp [State.outcome, hp, hr, regionResult_cut, enterFlush_flushWords]
  | t7 c cs hp hq => simp [State.outcome, hp, takeCluster_flushWords hq hnz]
  | t8 hp hq => simp [State.outcome, hp, endModule_out hq]
  | t9 w hp hr hw =>
    have hword := drop_take_of_word (limit := ws.length) (hlen ▸ hr) (hin w hw)
    simp only [List.take_length] at hword
    simp [State.outcome, hp, hword]
  | t10 hp hr => simp [State.outcome, hp, hr, hlen]

end Sys2Proof.Machine
end

section
/-!
SUPPORT. A frame comes to its end (spec/40_frame_parser.md R113, 20_memory.md R58): every step of a running frame is another
word supplied, a wait for one, or a transition, each of which leaves less to do.
-/

namespace Sys2Proof.Machine

/-! ### What a transition leaves to do -/

/-- Every transition that reads no word, but T7, goes to a phase of lower rank. -/
def Phase.rank : Phase → Nat
  | .hdr => 5
  | .strip => 4
  | .flush => 3
  | .modhdr => 2
  | .ftr => 1
  | .idle | .done | .errLen | .fault => 0

/-- What is left of a frame. A word still to be read counts for more than the two ClusterWords it may queue and the phases
it may lead back to. -/
def State.work (s : State) : Nat := 8 * (s.vs - s.rd) + s.phase.rank + s.q.length

/-- The steps that the host's acts to come leave to the core. -/
def State.delay (s : State) : Nat := (s.schedule.map (fun e => e.after + 1)).sum

theorem length_lineClusters_le (w : Word64) : (lineClusters w).length ≤ 2 := List.length_filter_le _ _

/-- A strip line queues at most two ClusterWords, overflow or not, and goes on in STRIP or in a phase after it. -/
theorem stripLine_work (w : Word64) {s : State} (hp : s.phase = .strip) (hr : s.rd < s.vs) :
    State.work (if lineLast w then (s.queueLine (upperHalf w) (lowerHalf w)).endLine
      else s.queueLine (upperHalf w) (lowerHalf w)) < s.work := by
  rcases stripLine_cases w hp with ⟨q', hq, e⟩ | ⟨q', -, hq', e⟩
  · obtain ⟨rfl, -⟩ := pushLine_eq hq
    have := length_lineClusters_le w
    rcases e with e | e <;> rw [e] <;> simp [State.work, hp, Phase.rank] <;> omega
  · have : q'.length ≤ s.q.length + 1 := by rcases hq' with rfl | ⟨-, rfl⟩ <;> simp
    rw [e]
    simp [State.work, hp, Phase.rank]
    omega

theorem Fires.work_lt {s t : State} (hf : Fires s t) (hi : s.Inv) : t.work < s.work := by
  obtain ⟨⟨hle, hmap⟩, -⟩ := hi
  obtain ⟨hH, -⟩ := hmap hf.running
  cases hf with
  | t5 w hp hr => exact stripLine_work w hp (by omega)
  | t1 _ hp hr | t3 _ hp hr | t9 _ hp hr => simp [State.work, hp, Phase.rank]; omega
  | t2 hp | t4 hp | t6 hp | t10 hp => simp [State.work, hp, Phase.rank]
  | t7 _ _ hp hq | t8 hp hq => simp [State.work, hp, hq, Phase.rank]

/-! ### What a transition leaves to the host -/

@[simp] theorem endModule_input (s : State) : s.endModule.input = s.input := by simp [State.endModule]
@[simp] theorem endModule_taking (s : State) : s.endModule.taking = s.taking := by simp [State.endModule]
@[simp] theorem endModule_schedule (s : State) : s.endModule.schedule = s.schedule := by simp [State.endModule]

theorem takeCluster_host_kept (c : ClusterWord) (s : State) :
    (s.takeCluster c).input = s.input ∧ (s.takeCluster c).taking = s.taking ∧
      (s.takeCluster c).schedule = s.schedule := by
  unfold State.takeCluster
  split <;> simp

theorem Fires.host_kept {s t : State} (hf : Fires s t) :
    t.input = s.input ∧ t.taking = s.taking ∧ t.schedule = s.schedule := by
  cases hf with
  | t5 w hp => rcases stripLine_cases w hp with ⟨q', -, e | e⟩ | ⟨q', -, -, e⟩ <;> rw [e] <;> simp
  | t7 c => exact takeCluster_host_kept c s
  | _ => simp

theorem Fires.ne_idle {s t : State} (hf : Fires s t) : t.phase ≠ .idle := by
  cases hf with
  | t5 w hp => rcases stripLine_cases w hp with ⟨q', -, e | e⟩ | ⟨q', -, -, e⟩ <;> rw [e] <;> simp [hp]
  | t1 _ hp | t7 _ _ hp | t9 _ hp => simp [hp]
  | t2 | t3 | t4 | t6 | t8 | t10 => simp

/-! ### A step of a running frame -/

/-- A region of which the read index is not past the end. -/
theorem inRegion_of_le {limit : Nat} {slot : Slot} {atEnd : Move} {s : State} (h : s.rd ≤ limit) :
    (s.rd < limit ∧ s.input[s.rd]? = none ∧ inRegion limit slot atEnd s = .wait) ∨
    (∃ w, inRegion limit slot atEnd s = .run slot w) ∨
    (s.rd = limit ∧ inRegion limit slot atEnd s = atEnd) := by
  rcases Nat.lt_or_eq_of_le h with hr | hr
  · cases hw : s.input[s.rd]? with
    | none => exact .inl ⟨hr, rfl, by simp only [inRegion, hr, if_true, readWord, hw]⟩
    | some w => exact .inr (.inl ⟨w, inRegion_word hr hw⟩)
  · exact .inr (.inr ⟨hr, inRegion_end hr⟩)

/-- A region whose end is a row of its own. -/
theorem inRegion_waits_or_runs {limit : Nat} {slot slot' : Slot} {w' : Word64} {s : State} (h : s.rd ≤ limit)
    (hslot : ∀ v, slot ≠ .frameStart v) (hslot' : ∀ v, slot' ≠ .frameStart v) :
    (s.rd < limit ∧ s.input[s.rd]? = none ∧ inRegion limit slot (.run slot' w') s = .wait) ∨
    ∃ row w, inRegion limit slot (.run slot' w') s = .run row w ∧ ∀ v, row ≠ .frameStart v := by
  rcases inRegion_of_le (slot := slot) (atEnd := .run slot' w') h with hwait | ⟨w, hm⟩ | ⟨-, hm⟩
  · exact .inl hwait
  · exact .inr ⟨slot, w, hm, hslot⟩
  · exact .inr ⟨slot', w', hm, hslot'⟩

/-- A running frame waits for a word, leaves the header, or runs a row other than START. -/
theorem fetch_of_running {s : State} (hi : s.Inv) (hrun : s.running) :
    (s.rd < s.vs ∧ s.input[s.rd]? = none ∧ fetch s = .wait) ∨
    (s.phase = .hdr ∧ s.rd = s.cfg.headerSize ∧ fetch s = .headerEnd) ∨
    ∃ slot w, fetch s = .run slot w ∧ ∀ v, slot ≠ .frameStart v := by
  obtain ⟨⟨hle, hmap⟩, hrd, -⟩ := hi
  obtain ⟨hH, -⟩ := hmap hrun
  cases hp : s.phase with
  | idle | done | errLen | fault => simp [State.running, hp, Phase.presentable] at hrun
  | hdr =>
    simp only [State.readIndexOk, hp] at hrd
    rw [fetch_hdr hp]
    rcases inRegion_of_le hrd with ⟨hr, hw, hm⟩ | ⟨w, hm⟩ | ⟨hr, hm⟩
    · exact .inl ⟨by omega, hw, hm⟩
    · exact .inr (.inr ⟨_, _, hm, nofun⟩)
    · exact .inr (.inl ⟨rfl, hr, hm⟩)
  | modhdr =>
    simp only [State.readIndexOk, hp] at hrd
    rw [fetch_modhdr hp]
    refine (inRegion_waits_or_runs hrd.2 ?_ ?_).imp (fun ⟨hr, hwait⟩ => ⟨by omega, hwait⟩) .inr <;> nofun
  | strip =>
    simp only [State.readIndexOk, hp] at hrd
    rw [fetch_strip hp]
    refine (inRegion_waits_or_runs hrd.2 ?_ ?_).imp (fun ⟨hr, hwait⟩ => ⟨by omega, hwait⟩) .inr <;> nofun
  | flush =>
    cases hq : s.q with
    | nil =>
      rw [fetch_flush_nil hp hq]
      split <;> exact .inr (.inr ⟨_, _, rfl, nofun⟩)
    | cons c cs => exact .inr (.inr ⟨_, _, fetch_flush_cons hp hq, nofun⟩)
  | ftr =>
    simp only [State.readIndexOk, hp] at hrd
    rw [fetch_ftr hp]
    refine (inRegion_waits_or_runs hrd.2 ?_ ?_).imp id .inr <;> nofun

/-- With no act of the host due and the host taking words, a running frame waits for a word or fires a transition. -/
theorem step_waits_or_fires {s : State} (hi : s.Inv) (hrun : s.running) (ht : s.taking = true)
    (hnext : nextMove s = fetch s) :
    (s.rd < s.vs ∧ s.input[s.rd]? = none ∧ step s = .next s.clock) ∨ ∃ t, step s = .next t ∧ Fires s.clock t := by
  rcases fetch_of_running hi hrun with ⟨hr, hw, hm⟩ | ⟨hp, hr, hm⟩ | ⟨slot, w, hm, hslot⟩
  · exact .inl ⟨hr, hw, by simp only [step, hnext, hm]⟩
  · exact .inr ⟨_, by simp only [step, hnext, hm], .t2 (by simpa using hp) (by simpa using hr)⟩
  · rcases run_fires (hnext.trans hm) with ⟨v, hv, -⟩ | ⟨i, t, hd, hx, hf⟩
    · exact absurd hv (hslot v)
    · exact .inr ⟨t, (step_of_run_taking ht (hnext.trans hm) hd).trans hx, hf⟩

/-! ### A frame whose words the host supplies -/

/-- `s` is in a frame of words `ws`, or at its end: the words not yet supplied are the host's acts to come, at any times. -/
structure State.InFrame (ws : List Word64) (s : State) : Prop where
  inv : s.Inv
  taking : s.taking = true
  supplied : ∃ later, s.schedule.map (·.act) = later.map (fun w => .give (.supply w)) ∧ s.input ++ later = ws
  length : s.vs = ws.length
  begun : s.phase ≠ .idle

theorem State.InFrame.clock {ws : List Word64} {s : State} (h : s.InFrame ws)
    (hacts : s.clock.schedule.map (·.act) = s.schedule.map (·.act)) : s.clock.InFrame ws := by
  obtain ⟨hi, ht, hsup, hlen, hbegun⟩ := h
  exact ⟨clock_inv hi, by simpa using ht, by rwa [hacts, State.clock_input], by simpa using hlen, by simpa using hbegun⟩

theorem State.InFrame.fires {ws : List Word64} {s t : State} (h : s.InFrame ws) (hf : Fires s t) :
    t.InFrame ws ∧ t.outcome ws = s.outcome ws := by
  obtain ⟨hi, ht, ⟨later, hacts, hws⟩, hlen, -⟩ := h
  obtain ⟨hin, htaking, hsch⟩ := hf.host_kept
  have hword : ∀ w, s.input[s.rd]? = some w → ws[s.rd]? = some w := fun w hw => by
    rw [← hws, List.getElem?_append_left (List.getElem?_eq_some_iff.mp hw).1, hw]
  refine ⟨⟨hf.inv hi, htaking.trans ht, ⟨later, by rwa [hsch], by rwa [hin]⟩, hf.frame_kept.1.trans hlen, hf.ne_idle⟩,
    hf.outcome_kept hi hlen hword⟩

@[simp] theorem clock_outcome (ws : List Word64) (s : State) : s.clock.outcome ws = s.outcome ws := by
  unfold State.clock; split <;> rfl

@[simp] theorem clock_work (s : State) : s.clock.work = s.work := by
  simp [State.work]

theorem State.InFrame.fires_from_clock {ws : List Word64} {s t : State} (h : s.clock.InFrame ws)
    (hdelay : s.clock.delay ≤ s.delay) (hf : Fires s.clock t) :
    t.InFrame ws ∧ t.outcome ws = s.outcome ws ∧ t.work + t.delay < s.work + s.delay := by
  obtain ⟨ht, hout⟩ := h.fires hf
  have hwork : t.work < s.work := clock_work s ▸ hf.work_lt h.inv
  have hkept : t.delay = s.clock.delay := by rw [State.delay, State.delay, hf.host_kept.2.2]
  exact ⟨ht, hout.trans (clock_outcome ws s), by omega⟩

/-- The host's only acts in a frame supply its words (70_reset_and_hazards.md R263). -/
theorem State.InFrame.step_of_due {ws : List Word64} {s : State} {a : HostAct} {es : List HostEvent}
    (h : s.InFrame ws) (hsch : s.schedule = ⟨0, a⟩ :: es) :
    ∃ t, step s = .next t ∧ t.InFrame ws ∧ t.outcome ws = s.outcome ws ∧ t.work + t.delay < s.work + s.delay := by
  obtain ⟨hi, ht, ⟨later, hacts, hws⟩, hlen, hbegun⟩ := h
  cases later with
  | nil => simp [hsch] at hacts
  | cons w later =>
    obtain ⟨rfl, hacts⟩ : a = .give (.supply w) ∧ es.map (·.act) = later.map (fun w => .give (.supply w)) := by
      simpa [hsch] using hacts
    refine ⟨{ s with input := s.input ++ [w], schedule := es }, ?_, ?_, rfl, ?_⟩
    · simp only [Machine.step, nextMove_of_due hsch, clock_of_due hsch, actMove, hostInput]
    · exact ⟨hi, ht, ⟨later, hacts, by simpa using hws⟩, hlen, hbegun⟩
    · simp [State.work, State.delay, hsch]

/-- With every word supplied a running frame never waits. -/
theorem State.InFrame.word_of_nil {ws : List Word64} {s : State} (h : s.InFrame ws) (hsch : s.schedule = [])
    (hr : s.rd < s.vs) : s.input[s.rd]? ≠ none := by
  obtain ⟨later, hacts, hws⟩ := h.supplied
  obtain rfl : later = [] := by simpa [hsch] using hacts.symm
  rw [List.append_nil] at hws
  rw [h.length, ← hws] at hr
  simp [hr]

/-- A step of a running frame keeps its result and leaves less to do. -/
theorem State.InFrame.step {ws : List Word64} {s : State} (h : s.InFrame ws) (hrun : s.running) :
    ∃ t, step s = .next t ∧ t.InFrame ws ∧ t.outcome ws = s.outcome ws ∧ t.work + t.delay < s.work + s.delay := by
  cases hsch : s.schedule with
  | nil =>
    have hclock := clock_of_nil hsch
    rcases step_waits_or_fires h.inv hrun h.taking (nextMove_of_nil hsch) with ⟨hr, hw, -⟩ | ⟨t, hs, hf⟩
    · exact absurd hw (h.word_of_nil hsch hr)
    · exact ⟨t, hs, State.InFrame.fires_from_clock (hclock.symm ▸ h) (by rw [hclock]) hf⟩
  | cons e es =>
    obtain ⟨n, a⟩ := e
    cases n with
    | zero => exact h.step_of_due hsch
    | succ n =>
      have hclock := clock_of_later hsch
      have hc : s.clock.InFrame ws := h.clock (by simp [hclock, hsch])
      have hdelay : s.clock.delay < s.delay := by simp [State.delay, hclock, hsch]
      rcases step_waits_or_fires h.inv hrun h.taking (nextMove_of_later hsch) with ⟨-, -, hs⟩ | ⟨t, hs, hf⟩
      · exact ⟨s.clock, hs, hc, clock_outcome ws s, by rw [clock_work]; omega⟩
      · exact ⟨t, hs, hc.fires_from_clock hdelay.le hf⟩

/-- A frame runs to its end, with the result that it leads to. -/
theorem State.InFrame.completes {ws : List Word64} {s : State} (h : s.InFrame ws) :
    ∃ (k : Nat) (t : State), runsTo k s t ∧ t.phase ∈ [Phase.done, .errLen, .fault] ∧
      t.status = (s.outcome ws).status ∧ t.out = (s.outcome ws).out := by
  induction hn : s.work + s.delay using Nat.strong_induction_on generalizing s with
  | _ n ih =>
    by_cases hrun : s.running
    · obtain ⟨u, hs, hu, hout, hlt⟩ := h.step hrun
      obtain ⟨k, t, hk, ht⟩ := ih _ (hn ▸ hlt) hu rfl
      exact ⟨k + 1, t, ⟨u, hs, hk⟩, hout ▸ ht⟩
    · refine ⟨0, s, rfl, ?_⟩
      cases hp : s.phase with
      | idle => exact absurd hp h.begun
      | hdr | modhdr | strip | flush | ftr => exact absurd (by simp [State.running, hp, Phase.presentable]) hrun
      | done | errLen | fault => simp [State.outcome, hp]

/-! ### The host's acts before a frame -/

/-- Between frames the core waits until an act of the host is due (70_reset_and_hazards.md R261). -/
theorem runsTo_of_due {n k : Nat} {a : HostAct} {es : List HostEvent} {s t : State} (hp : s.phase.presentable = true)
    (hs : s.schedule = ⟨n, a⟩ :: es) (h : runsTo k { s with schedule := ⟨0, a⟩ :: es } t) : runsTo (k + n) s t := by
  induction n generalizing s with
  | zero => rwa [← hs] at h
  | succ n ih =>
    have hstep : step s = .next { s with schedule := ⟨n, a⟩ :: es } := by
      simp only [step, nextMove_of_later hs, fetch_presentable hp, clock_of_later hs]
    exact ⟨_, hstep, ih hp rfl h⟩

theorem step_configure {s : State} {cfg : Cfg} {es : List HostEvent} (hp : s.phase.presentable = true)
    (hs : s.schedule = ⟨0, .give (.configure cfg)⟩ :: es) : step s = .next { s with cfg := cfg, schedule := es } := by
  simp [step, nextMove_of_due hs, clock_of_due hs, actMove, hostInput, hp]

theorem step_present {s : State} {v : Nat} {es : List HostEvent} (hp : s.phase.presentable = true)
    (ht : s.taking = true) (hfit : lengthFits s.cfg v = true) (hs : s.schedule = ⟨0, .present v⟩ :: es) :
    step s = .next (State.startFrame v { s with schedule := es }) := by
  rw [step_of_run_taking (i := .start v) ht (nextMove_of_due hs) rfl, clock_of_due hs]
  simp [exec, execStart, hp, hfit]

/-- START begins a frame of the words that the host is about to supply. -/
theorem startFrame_inFrame {ws : List Word64} {s : State} (ht : s.taking = true) (hfit : lengthFits s.cfg ws.length = true)
    (hfeed : s.schedule.map (·.act) = ws.map (fun w => .give (.supply w))) :
    (s.startFrame ws.length).InFrame ws := by
  have hinv := startFrame_inv ws.length hfit
  rcases Nat.lt_or_ge ws.length (s.cfg.headerSize + s.cfg.footerSize) with hv | hv
  · rw [startFrame_short hv] at hinv ⊢
    exact ⟨hinv, ht, ⟨ws, hfeed, rfl⟩, rfl, nofun⟩
  · rw [startFrame_admitted hv] at hinv ⊢
    exact ⟨hinv, ht, ⟨ws, hfeed, rfl⟩, rfl, nofun⟩

/-- Settles O55: the configuration and START land after the host's delays, START leads to the result of `Frame`
(`startFrame_outcome`), and the frame runs to that result (`State.InFrame.completes`). -/
theorem stepMachineComputesFrame : Obligations.StepMachineComputesFrame := by
  intro cfg ws s d₁ d₂ feed hp ht hfit hsch hfeed
  obtain ⟨k, t, hk, hend⟩ :=
    (startFrame_inFrame (s := { s with cfg := cfg, schedule := feed }) ht hfit hfeed).completes
  rw [startFrame_outcome] at hend
  have hpresented : runsTo (k + 1 + d₂) { s with cfg := cfg, schedule := ⟨d₂, .present ws.length⟩ :: feed } t :=
    runsTo_of_due hp rfl ⟨_, step_present hp ht hfit rfl, hk⟩
  have hconfigured : runsTo (k + 1 + d₂ + 1 + d₁) s t :=
    runsTo_of_due hp hsch ⟨_, step_configure hp rfl, hpresented⟩
  exact ⟨_, t, hconfigured, hend⟩

end Sys2Proof.Machine
end

section
/-!
SUPPORT. The Cluster Decoder (spec/41_cluster_decoder.md): the Cluster Shape Table, the hits of a ClusterWord, and what the
eight rows of queued ClusterWords do, said once for every shape code.
-/

namespace Sys2Proof.Machine

open Host (Outcome)

/-! ### The Cluster Shape Table (R133) -/

/-- Settles O23: the eight entries as the table lists them. -/
theorem shapeTableEntries : Obligations.ShapeTableEntries :=
  ⟨rfl, rfl, rfl, rfl, rfl, rfl, rfl, rfl⟩

/-- A secondary hit begins no nearer than the primary's size, shape by shape. -/
theorem primarySize_le_offset (sh : BitVec 3) :
    ∀ second ∈ (shapeEntry sh).secondary, (shapeEntry sh).primarySize.toNat ≤ second.1.toNat := by
  obtain ⟨e0, e1, e2, e3, e4, e5, e6, e7⟩ := shapeTableEntries
  rcases shapeCodes sh with rfl | rfl | rfl | rfl | rfl | rfl | rfl | rfl <;>
    simp [e0, e1, e2, e3, e4, e5, e6, e7]

/-! ### The hits of a ClusterWord (R134, R135) -/

section Expand

variable (n size : BitVec 3) (off p : Position) (pid : PassthroughId)

@[simp] theorem expandEntry_one : expandEntry ⟨n, none⟩ p pid = [⟨p, n, pid⟩] := rfl

@[simp] theorem expandEntry_two :
    expandEntry ⟨n, some (off, size)⟩ p pid = [⟨p, n, pid⟩, ⟨p + off, size, pid⟩] := rfl

end Expand

theorem expandEntry_id {e : ShapeEntry} {p : Position} {pid : PassthroughId} {h : DecodedHit}
    (hh : h ∈ expandEntry e p pid) : h.passthroughId = pid := by
  obtain ⟨n, _ | ⟨off, size⟩⟩ := e
  · obtain rfl : h = _ := by simpa using hh
    rfl
  · obtain rfl | rfl : h = _ ∨ h = _ := by simpa using hh
    all_goals rfl

/-- Two hits come from an entry with a secondary. -/
theorem expandEntry_eq_pair {e : ShapeEntry} {p : Position} {pid : PassthroughId} {h h' : DecodedHit}
    (hh : expandEntry e p pid = [h, h']) :
    ∃ off size, e.secondary = some (off, size) ∧ h = ⟨p, e.primarySize, pid⟩ ∧ h' = ⟨p + off, size, pid⟩ := by
  obtain ⟨n, _ | ⟨off, size⟩⟩ := e
  · simp at hh
  · obtain ⟨rfl, rfl⟩ : _ = h ∧ _ = h' := by simpa using hh
    exact ⟨off, size, rfl, rfl, rfl⟩

/-- The half flag is not read (R132). -/
theorem decodeOne_clusterWord (f : BitVec 1) (p : Position) (sh : BitVec 3) (pid : PassthroughId) :
    decodeOne (clusterWord f p sh pid) = expandEntry (shapeEntry sh) p pid := by
  simp only [decodeOne, clusterShape_clusterWord, clusterPosition_clusterWord, clusterId_clusterWord]

/-- A position moved on by an offset is taken modulo 4096 (92_eei_decisions.md D3). -/
theorem position_add_ofNat (p : Position) (n : Nat) :
    p + BitVec.ofNat 12 n = BitVec.ofNat 12 ((p.toNat + n) % 4096) := by
  apply BitVec.eq_of_toNat_eq
  simp

/-- A position that grows by an offset did not wrap. -/
theorem toNat_add_of_lt {p off : Position} (h : p.toNat < (p + off).toNat) :
    (p + off).toNat = p.toNat + off.toNat := by
  rw [BitVec.toNat_add] at h ⊢
  omega

/-! ### The rows of queued ClusterWords (R136 to R143) -/

/-- Each shape's row is T7 on the hits of its table entry. -/
theorem exec_decodeShape (sh : BitVec 3) (f : BitVec 1) (p : Position) (pid : PassthroughId) (s : State) :
    exec (decodeShape sh f p pid) s = clusterStep (expandEntry (shapeEntry sh) p pid) s := by
  rcases shapeCodes sh with rfl | rfl | rfl | rfl | rfl | rfl | rfl | rfl <;> rfl

theorem mem_clusterRows {i : Instr} {f : BitVec 1} {p : Position} {pid : PassthroughId}
    (h : i ∈ [Instr.cwS0 f p pid, .cwS1 f p pid, .cwS2 f p pid, .cwS3 f p pid, .cwS4 f p pid, .cwS5 f p pid,
              .cwS6 f p pid, .cwS7 f p pid]) : ∃ sh, i = decodeShape sh f p pid := by
  simp only [List.mem_cons, List.not_mem_nil, or_false] at h
  rcases h with rfl | rfl | rfl | rfl | rfl | rfl | rfl | rfl
  exacts [⟨0#3, rfl⟩, ⟨1#3, rfl⟩, ⟨2#3, rfl⟩, ⟨3#3, rfl⟩, ⟨4#3, rfl⟩, ⟨5#3, rfl⟩, ⟨6#3, rfl⟩, ⟨7#3, rfl⟩]

theorem clusterStep_next {hs : List DecodedHit} {s t : State} (h : clusterStep hs s = .next t) : t = s.takeHits hs := by
  unfold clusterStep at h
  split at h
  · exact (Outcome.next.inj h).symm
  · cases h

/-- The queue's head is popped, and the hits are accepted with the rest of the queue still to come. -/
theorem clusterStep_queued (hs : List DecodedHit) {s : State} {c : ClusterWord} {cs : List ClusterWord}
    (hp : s.phase = .flush) (hq : s.q = c :: cs) :
    clusterStep hs s = .next (State.acceptHits hs cs.isEmpty { s with q := cs }) := by
  simp [clusterStep, hp, hq, State.takeHits, State.popCluster]

theorem acceptHits_one (h : DecodedHit) (fin : Bool) (s : State) :
    State.acceptHits [h] fin s = (s.overlapTrack h).encodeAndPack h fin := by
  simp [State.acceptHits]

theorem acceptHits_two (h h' : DecodedHit) (fin : Bool) (s : State) :
    State.acceptHits [h, h'] fin s =
      (((s.overlapTrack h).encodeAndPack h false).overlapTrack h').encodeAndPack h' fin := by
  simp [State.acceptHits]

/-! ### The obligations of 41_cluster_decoder.md -/

/-- Settles O26: every row takes hits (`clusterStep_next`), and accepting them only appends to the packed words
(`acceptHits_grow`). -/
theorem clusterRowFrame : Obligations.ClusterRowFrame := by
  intro f p pid s t i hi hexec
  obtain ⟨sh, rfl⟩ := mem_clusterRows hi
  rw [exec_decodeShape] at hexec
  obtain rfl := clusterStep_next hexec
  exact ⟨takeHits_phase _ s, takeHits_rd _ s, takeHits_vs _ s, takeHits_fe _ s, takeHits_q _ s, takeHits_status _ s,
    takeHits_cfg _ s, takeHits_input _ s, takeHits_taking _ s, takeHits_schedule _ s, acceptHits_grow _ _ s.popCluster⟩

/-- Settles O27: a hit's id is the one its ClusterWord is expanded with, and no table entry has an offset below its primary
size (`primarySize_le_offset`). -/
theorem idsPassThroughAndHitsStayApart : Obligations.IdsPassThroughAndHitsStayApart := by
  refine ⟨fun c h hh => ?_, fun c h h' hpair hlt => ?_⟩
  · have hid : h.passthroughId = c.extractLsb' 0 16 := expandEntry_id hh
    exact ⟨hid, fun last => (encodeRecord_id h last).trans hid⟩
  · obtain ⟨off, size, hsec, rfl, rfl⟩ := expandEntry_eq_pair hpair
    rw [toNat_add_of_lt hlt]
    exact Nat.add_le_add_left (primarySize_le_offset _ _ hsec) _

/-- Settles O22: CW.NOHIT's test fails or pops the zero word, and a strip line queues its nonzero halves alone
(`stripLineQueuesItsHalves`). -/
theorem noHitIsDropped : Obligations.NoHitIsDropped := by
  refine ⟨fun s h => if_neg (not_and_or.mpr h), fun s cs hp hq => ?_, fun c s hp hr hcap hc => ?_⟩
  · have hhead : s.q.head? = some 0#32 := by rw [hq]; rfl
    exact (if_pos ⟨hp, hhead⟩).trans (by rw [State.popCluster, hq]; rfl)
  · have hline (hi lo : ClusterWord) := (stripLineQueuesItsHalves hi lo s hp hr (by simp [hcap])).1
    exact ⟨by simpa using hline 0#32 0#32, by simpa [hc] using hline c 0#32, by simpa [hc] using hline 0#32 c⟩

/-- Settles O24: the table entry of each shape code, expanded at the position and id of the ClusterWord. -/
theorem decodeOneExpandsByShape : Obligations.DecodeOneExpandsByShape := by
  intro f p pid at'
  obtain ⟨e0, e1, e2, e3, e4, e5, e6, e7⟩ := shapeTableEntries
  have h2 : p + 2#12 = at' 2 := position_add_ofNat p 2
  have h3 : p + 3#12 = at' 3 := position_add_ofNat p 3
  simp only [decodeOne_clusterWord, e0, e1, e2, e3, e4, e5, e6, e7, expandEntry_one, expandEntry_two, h2, h3, and_self]

/-- Settles O25: each row pops the head and accepts the one or two hits of its table entry. -/
theorem clusterRowsTakeTheirHits : Obligations.ClusterRowsTakeTheirHits := by
  intro f p pid s c cs hp hq one two
  obtain ⟨e0, e1, e2, e3, e4, e5, e6, e7⟩ := shapeTableEntries
  have hone (sh : BitVec 3) {n : BitVec 3} (he : shapeEntry sh = ⟨n, none⟩) :
      exec (decodeShape sh f p pid) s = .next (one ⟨p, n, pid⟩) := by
    rw [exec_decodeShape, clusterStep_queued _ hp hq, he, expandEntry_one, acceptHits_one]
  have htwo (sh : BitVec 3) {n size : BitVec 3} {off : Position} (he : shapeEntry sh = ⟨n, some (off, size)⟩) :
      exec (decodeShape sh f p pid) s = .next (two ⟨p, n, pid⟩ ⟨p + off, size, pid⟩) := by
    rw [exec_decodeShape, clusterStep_queued _ hp hq, he, expandEntry_two, acceptHits_two]
  exact ⟨hone 0#3 e0, htwo 1#3 e1, htwo 2#3 e2, htwo 3#3 e3, hone 4#3 e4, htwo 5#3 e5, hone 6#3 e6, hone 7#3 e7⟩

end Sys2Proof.Machine
end

section
/-!
SUPPORT. The Address Unroller (spec/42_address_unroller.md): the values of its row and strip index in the two halves of
a chip, the range of the strip index, and the inverse of R163.
-/

namespace Sys2Proof.Machine

/-! ### The two halves of a chip (R160) -/

/-- The row as a number: which half of its chip the strip lies in. -/
theorem unroll_row_toNat (p : Position) : (unroll p).row.toNat = p.toNat / 128 % 2 := by
  rw [unroll_row, BitVec.extractLsb'_toNat, Nat.shiftRight_eq_div_pow]

theorem unroll_upper {p : Position} (h : 128 ≤ p.toNat % 256) :
    (unroll p).row = 1#1 ∧ (unroll p).stripIndex.toNat = (p.toNat % 256 - 128) + p.toNat / 256 * 128 := by
  constructor
  · apply BitVec.eq_of_toNat_eq
    rw [unroll_row_toNat, BitVec.toNat_one (by decide)]
    omega
  · rw [unroll_stripIndex_toNat]
    omega

theorem unroll_lower {p : Position} (h : p.toNat % 256 < 128) :
    (unroll p).row = 0#1 ∧ (unroll p).stripIndex.toNat = p.toNat % 256 + p.toNat / 256 * 128 := by
  constructor
  · apply BitVec.eq_of_toNat_eq
    rw [unroll_row_toNat, BitVec.toNat_zero]
    omega
  · rw [unroll_stripIndex_toNat]
    omega

/-! ### The range of the strip index (R162) -/

theorem unroll_stripIndex_lt (p : Position) : (unroll p).stripIndex.toNat < 2048 := by
  have hp := p.isLt
  rw [unroll_stripIndex_toNat]
  omega

/-- A strip index below 2048 leaves the top bit of its 12-bit field clear. -/
theorem stripIndex_bit11 {si : BitVec 12} (h : si.toNat < 2048) : si.getLsbD 11 = false :=
  Nat.testBit_lt_two_pow h

/-! ### The inverse (R163) -/

theorem rollBack_unroll (p : Position) : rollBack (unroll p).stripIndex (unroll p).row = p := by
  rw [unroll_stripIndex, unroll_row, rollBack_fields]

theorem unroll_rollBack {si : BitVec 12} (row : BitVec 1) (h : si.toNat < 2048) :
    unroll (rollBack si row) = ⟨si, row⟩ := by
  have hsi : (unroll (rollBack si row)).stripIndex = si := by
    rw [unroll_stripIndex, rollBack_stripIndex row (stripIndex_bit11 h)]
  have hrow : (unroll (rollBack si row)).row = row := by
    rw [unroll_row, rollBack_row]
  exact congrArg₂ Unrolled.mk hsi hrow

/-- Two positions with one result are both what the inverse makes of it. -/
theorem unroll_injective {p p' : Position} (h : unroll p = unroll p') : p = p' := by
  rw [← rollBack_unroll p, h, rollBack_unroll]

/-! ### The obligations of 42_address_unroller.md -/

/-- Settles O30: `rollBack` is the inverse of `unroll` on both sides, below 2048 on the side of the strip index. -/
theorem unrollIsABijection : Obligations.UnrollIsABijection :=
  ⟨fun _ _ => unroll_injective, rollBack_unroll, fun _ row h => unroll_rollBack row h⟩

/-- Settles O28: the row drives the wire with `unroll p`, whose fields each half of the chip fixes. -/
theorem unrollComputesIndexAndRow : Obligations.UnrollComputesIndexAndRow :=
  fun p _ => ⟨unroll p, rfl, unroll_upper, unroll_lower⟩

/-- Settles O29: the fields are the position's bits, and the range of the strip index leaves its bit 11 clear. -/
theorem unrollIsARewiring : Obligations.UnrollIsARewiring :=
  fun p => ⟨unroll_row p, unroll_stripIndex p, Nat.le_of_lt_succ (unroll_stripIndex_lt p),
    stripIndex_bit11 (unroll_stripIndex_lt p)⟩

end Sys2Proof.Machine
end

section
/-!
SUPPORT. The Encoder/Packer (spec/43_encoder_packer.md): the bits of an encoded record, where the Packer's words go, the
records and words of a whole module, and reading the records back.
-/

namespace Sys2Proof.Machine

/-! ### The Packer's destination (R188) -/

/-- A packed word is appended to `out` with the check off and to `mbuf` with it on. -/
theorem sink_eq_append (w : Word64) (s : State) :
    s.sink w =
      { s with
        out := if s.cfg.overlapCheck = .on then s.out else s.out ++ [w]
        mbuf := if s.cfg.overlapCheck = .on then s.mbuf ++ [w] else s.mbuf } := by
  unfold State.sink
  cases s.cfg.overlapCheck <;> rfl

/-! ### The rows of the Packer (R183 to R185) -/

theorem exec_encodeHit (h : DecodedHit) (last : Bool) {s : State} (hp : s.phase = .flush) :
    exec (.encodeHit h last) s =
      .next ({ s with unrolled := Unrolled.idle }.packerAccept (encodeRecord h last)) :=
  if_pos hp

theorem packerAccept_held {s : State} {a : Record} (hh : s.held = some a) (r : Record) :
    s.packerAccept r = { s.sink (pairWord a r) with held := none } := by
  simp only [State.packerAccept, hh, State.packPair]

theorem packerAccept_final {s : State} {r : Record} (hh : s.held = none) (hl : recordLast r = true) :
    s.packerAccept r = s.sink (oddWord r) := by
  simp only [State.packerAccept, hh, if_pos hl, packOdd_last hl]

theorem packerAccept_first {s : State} {r : Record} (hh : s.held = none) (hl : recordLast r = false) :
    s.packerAccept r = { s with held := some r } := by
  simp only [State.packerAccept, hh, hl, Bool.false_eq_true, if_false]

/-! ### The records of a module (R181) -/

/-- Record `k` of a module is that of hit `k`, with `last` set where no hit follows. -/
theorem getElem?_moduleRecords (hs : List DecodedHit) (k : Nat) :
    (moduleRecords hs)[k]? = hs[k]?.map (fun h => encodeRecord h (decide (k + 1 = hs.length))) := by
  induction hs generalizing k with
  | nil => rfl
  | cons h hs ih =>
    rw [moduleRecords_cons]
    cases k with
    | zero => cases hs <;> simp
    | succ k => simp [ih]

theorem moduleRecords_cons_cons (g h : DecodedHit) (hs : List DecodedHit) :
    moduleRecords (g :: h :: hs) = encodeRecord g false :: encodeRecord h hs.isEmpty :: moduleRecords hs := by
  rw [moduleRecords_cons, moduleRecords_cons, List.isEmpty_cons]

/-! ### Packing in pairs (R184, R185) -/

theorem packRecords_pair {rs : List Record} {j : Nat} {a b : Record} (ha : rs[2 * j]? = some a)
    (hb : rs[2 * j + 1]? = some b) : (packRecords rs)[j]? = some (pairWord a b) := by
  induction rs using List.twoStepInduction generalizing j with
  | nil => simp at ha
  | singleton r => simp at hb
  | cons_cons r r' rs ih =>
    cases j with
    | zero =>
      cases ha
      cases hb
      rfl
    | succ j => exact ih ha hb

theorem packRecords_odd {rs : List Record} {j : Nat} {r : Record} (hr : rs[2 * j]? = some r)
    (hlen : 2 * j + 1 = rs.length) : (packRecords rs)[j]? = some (oddWord r) := by
  induction rs using List.twoStepInduction generalizing j with
  | nil => simp at hr
  | singleton r' =>
    obtain rfl : j = 0 := by simpa using hlen
    cases hr
    rfl
  | cons_cons a b rs ih =>
    simp only [List.length_cons] at hlen
    cases j with
    | zero => omega
    | succ j => exact ih hr (by omega)

/-! ### Reading the records back (R189) -/

theorem unpack_oddWord {r : Record} (h : recordLast r = true) (ws : List Word64) :
    unpack (oddWord r :: ws) = [r] := by
  simp only [unpack, oddWord, upperHalf_joinHalves, if_pos h]

/-- A pair whose first record is not final gives both records, and ends the module where the second is final. -/
theorem unpack_pairWord {a : Record} (h : recordLast a = false) (b : Record) (ws : List Word64) :
    unpack (pairWord a b :: ws) = a :: b :: if recordLast b then [] else unpack ws := by
  simp only [unpack, pairWord, upperHalf_joinHalves, lowerHalf_joinHalves, h, Bool.false_eq_true, if_false]
  split <;> rfl

theorem unpack_plainOutput (hs : List DecodedHit) : unpack (plainOutput hs) = moduleRecords hs := by
  induction hs using List.twoStepInduction with
  | nil => rfl
  | singleton h => exact unpack_oddWord (encodeRecord_last h true) []
  | cons_cons g h hs ih =>
    rw [plainOutput_cons_cons, unpack_pairWord (encodeRecord_last g false), encodeRecord_last, ih,
      moduleRecords_cons_cons]
    cases hs <;> rfl

/-! ### The obligations of 43_encoder_packer.md -/

/-- Settles O35: by induction over the hits (`getElem?_moduleRecords`). -/
theorem onlyTheFinalRecordIsLast : Obligations.OnlyTheFinalRecordIsLast :=
  getElem?_moduleRecords

/-- Settles O36: packing takes the records at `2j` and `2j + 1`, and these are those of the hits there. -/
theorem plainOutputPacksInPairs : Obligations.PlainOutputPacksInPairs := by
  refine ⟨fun q => if_neg (by simp), fun hs => ⟨length_plainOutput hs, fun j g h hg hh => ?_, fun j g hg hlen => ?_⟩⟩
  · have hne : 2 * j + 1 ≠ hs.length := by
      have := (List.getElem?_eq_some_iff.mp hh).1
      omega
    exact packRecords_pair (by simp [getElem?_moduleRecords, hg, hne]) (by simp [getElem?_moduleRecords, hh])
  · exact packRecords_odd (by simp [getElem?_moduleRecords, hg, hlen]) (by rw [length_moduleRecords, hlen])

/-- Settles O37: by induction over the pairs of hits (`unpack_plainOutput`); no hits give no words and no records, so the
round trip holds there too. -/
theorem unpackingRoundTrips : Obligations.UnpackingRoundTrips :=
  fun hs _ => unpack_plainOutput hs

/-- Settles O31: the fields of the record's format, with the size's low two bits as its residue. -/
theorem recordFields : Obligations.RecordFields := by
  intro h last
  refine ⟨encodeRecord_last h last, recordWord_row .., ?_, recordWord_stripIndex .., encodeRecord_id h last,
    encodeRecord_bit27 h last⟩
  rw [encodeRecord, recordOf, recordWord_nStrips, nStrips, BitVec.toNat_setWidth]

/-- Settles O32: the three cases of `PackerAccept`, with the unroller's wire idle. -/
theorem encodedHitGoesToThePacker : Obligations.EncodedHitGoesToThePacker := by
  intro h last s hp
  have hlast := encodeRecord_last h last
  refine ⟨fun a hh => ?held, fun hh hl => ?final, fun hh hl => ?first⟩ <;> rw [exec_encodeHit h last hp]
  case held =>
    rw [packerAccept_held (s := { s with unrolled := Unrolled.idle }) hh, sink_eq_append]
    rfl
  case final =>
    rw [packerAccept_final (s := { s with unrolled := Unrolled.idle }) hh (hlast.trans hl), sink_eq_append]
    rfl
  case first => rw [packerAccept_first (s := { s with unrolled := Unrolled.idle }) hh (hlast.trans hl)]

/-- Settles O33: the row's guard holds, and a pair word leaves whatever its value. -/
theorem pairWordIsPacked : Obligations.PairWordIsPacked := by
  intro a b s hp hh
  have hexec : exec (.outPair a b) s = .next (s.packPair a b) := if_pos ⟨hp, hh⟩
  rw [hexec, State.packPair, sink_eq_append]
  rfl

/-- Settles O34: the row's guard holds, and the flag of a final record makes its word nonzero (`oddWord_ne_zero`). -/
theorem oddRecordIsFlushedAlone : Obligations.OddRecordIsFlushedAlone := by
  intro r s hp hh hl
  have hexec : exec (.outOdd r) s = .next (s.packOdd r) := if_pos ⟨hp, hh, hl⟩
  refine ⟨oddWord_ne_zero hl, ?_⟩
  rw [hexec, packOdd_last hl, sink_eq_append]
  rfl

end Sys2Proof.Machine
end

section
/-!
SUPPORT. The adjacency check (spec/44_overlap_check.md): the test of two hits in exact arithmetic, the overlapping pairs of
a hit list, and the end of an overlapping module.
-/

namespace Sys2Proof.Machine

/-! ### Neighbouring hits (R210, R212) -/

theorem hitsOverlap_iff (g h : DecodedHit) :
    hitsOverlap g h = true ↔ g.position.toNat + g.size.toNat > h.position.toNat :=
  decide_eq_true_iff

theorem overlaps_cons_cons (g h : DecodedHit) (hs : List DecodedHit) :
    overlaps (g :: h :: hs) = true ↔ hitsOverlap g h = true ∨ overlaps (h :: hs) = true :=
  Bool.or_eq_true_iff

/-- The hits at `k` and `k + 1` are both there and overlap. -/
def OverlapAt (hs : List DecodedHit) (k : Nat) : Prop :=
  ∃ g h : DecodedHit, hs[k]? = some g ∧ hs[k + 1]? = some h ∧ hitsOverlap g h = true

theorem not_overlapAt_nil (k : Nat) : ¬ OverlapAt [] k := by
  simp [OverlapAt]

theorem not_overlapAt_singleton (g : DecodedHit) (k : Nat) : ¬ OverlapAt [g] k := by
  simp [OverlapAt]

theorem overlapAt_zero (g h : DecodedHit) (hs : List DecodedHit) :
    OverlapAt (g :: h :: hs) 0 ↔ hitsOverlap g h = true := by
  simp [OverlapAt]

theorem overlapAt_succ (g : DecodedHit) (hs : List DecodedHit) (k : Nat) :
    OverlapAt (g :: hs) (k + 1) ↔ OverlapAt hs k :=
  Iff.rfl

theorem overlaps_iff_exists_overlapAt (hs : List DecodedHit) : overlaps hs = true ↔ ∃ k, OverlapAt hs k := by
  induction hs using overlaps.induct with
  | case1 => exact iff_of_false Bool.false_ne_true fun ⟨k, hk⟩ => not_overlapAt_nil k hk
  | case2 g => exact iff_of_false Bool.false_ne_true fun ⟨k, hk⟩ => not_overlapAt_singleton g k hk
  | case3 g h hs ih =>
    calc overlaps (g :: h :: hs) = true
      _ ↔ hitsOverlap g h = true ∨ overlaps (h :: hs) = true := overlaps_cons_cons g h hs
      _ ↔ OverlapAt (g :: h :: hs) 0 ∨ ∃ k, OverlapAt (g :: h :: hs) (k + 1) := by
        simp only [ih, overlapAt_zero, overlapAt_succ]
      _ ↔ ∃ k, OverlapAt (g :: h :: hs) k := Nat.or_exists_add_one

/-! ### The end of an overlapping module (R213) -/

theorem exec_outSentinel_overlapped {s : State} (hp : s.phase = .flush) (hq : s.q = [])
    (hon : s.cfg.overlapCheck = .on) (hovf : s.ovf = true) : exec .outSentinel s = .next s.endModule :=
  if_pos ⟨hp, hq, hon, hovf⟩

/-- T8 where an overlap was seen. -/
theorem endModule_overlapped {s : State} (hon : s.cfg.overlapCheck = .on) (hovf : s.ovf = true) :
    s.endModule =
      { s with
        out := s.out ++ [sentinel], phase := .modhdr, q := [], held := none, prev := none, ovf := false
        mbuf := [], unrolled := Unrolled.idle } := by
  simp only [endModule_eq, hon, if_pos hovf]

/-! ### The obligations of 44_overlap_check.md -/

/-- Settles O39: by induction along the list, the overlapping pair is at its head or further on
(`overlaps_iff_exists_overlapAt`). -/
theorem overlapComparesNeighbours : Obligations.OverlapComparesNeighbours := by
  intro hs
  simp only [overlaps_iff_exists_overlapAt, OverlapAt, hitsOverlap_iff]

/-- Settles O40: the row's guard holds and FLUSH finds nothing to drain, so both are T8 (`endModule_overlapped`). -/
theorem sentinelReplacesTheModule : Obligations.SentinelReplacesTheModule := by
  intro s hp hq hon hovf t
  have ht : s.endModule = t := by rw [endModule_overlapped hon hovf, ← hq]; rfl
  rw [exec_outSentinel_overlapped hp hq hon hovf, exec_flush_drained hp hq, ht]
  exact ⟨rfl, rfl⟩

end Sys2Proof.Machine
end

section
/-!
SUPPORT. Errors and stops (spec/60_exceptions.md): a strip line that overflows the queue, a frame that an overflow stops,
and every outcome of a step.
-/

namespace Sys2Proof.Machine

/-! ### A strip line that overflows the queue (R233, R235) -/

theorem queueFull_iff {cfg : Cfg} {n : Nat} (hc : cfg.queueCapacity = some n) (q : List ClusterWord) :
    queueFull cfg q = true ↔ q.length = n := by
  simp [queueFull, hc]

/-- The upper half stops the frame, and the lower one is not looked at (R235). -/
theorem queueLine_upper_full {hi : ClusterWord} (lo : ClusterWord) {s : State} (hhi : hi ≠ 0#32)
    (hf : queueFull s.cfg s.q = true) :
    s.queueLine hi lo = { s with rd := s.rd + 1, status := .queueOverflow, phase := .fault } := by
  have hpush := pushHalf_full (s := s.consume) hhi hf
  unfold State.queueLine
  rw [hpush]
  rfl

/-- The lower half meets the queue that the upper one leaves. -/
theorem queueLine_lower_full {hi lo : ClusterWord} {q' : List ClusterWord} {s : State} (hp : s.phase ≠ .fault)
    (hhi : s.consume.pushHalf hi = { s.consume with q := q' }) (hlo : lo ≠ 0#32) (hf : queueFull s.cfg q' = true) :
    s.queueLine hi lo = { s with rd := s.rd + 1, q := q', status := .queueOverflow, phase := .fault } := by
  have hpush := pushHalf_full (s := { s.consume with q := q' }) hlo hf
  unfold State.queueLine
  rw [hhi]
  exact (if_neg hp).trans hpush

/-- After an overflow the LAST rows do what LINE.CONT does: the module's end is not reached (R107). -/
theorem exec_line_overflow {hi lo : ClusterWord} {s t : State} (hp : s.phase = .strip) (hr : s.rd < s.fe)
    (hqueue : s.queueLine hi lo = t) (ht : t.phase = .fault) :
    ∀ i ∈ [Instr.lineCont hi lo, .lineLastHi hi lo, .lineLastLo hi lo, .lineLastBoth hi lo], exec i s = .next t := by
  have hend : (s.queueLine hi lo).endLine = t := by rw [hqueue, State.endLine, if_pos ht]
  intro i hi
  simp only [List.mem_cons, List.not_mem_nil, or_false] at hi
  rcases hi with rfl | rfl | rfl | rfl
  · exact (if_pos ⟨hp, hr⟩).trans (congrArg Host.Outcome.next hqueue)
  all_goals exact (if_pos ⟨hp, hr⟩).trans (congrArg Host.Outcome.next hend)

/-! ### A module region that an overflow stops (R233, R236) -/

theorem frameResult_short {cfg : Cfg} {ws : List Word64} (h : ws.length < cfg.headerSize + cfg.footerSize) :
    frameResult cfg ws = { status := .invalidLength, out := [] } :=
  if_pos h

theorem moduleRegion_status_of_unbounded {cfg : Cfg} (hc : cfg.queueCapacity = none) (m : Option (List ClusterWord))
    (ws : List Word64) : (moduleRegion cfg m ws).status = .ok := by
  induction m, ws using moduleRegion.induct cfg with
  | case1 | case2 => rfl
  | case3 w ws ih => exact ih
  | case4 q w ws hq => simp [pushLine_unbounded hc] at hq
  | case5 q w ws q' hq hl ih => simpa [moduleRegion, hq, hl] using ih
  | case6 q w ws q' hq hl ih => simpa [moduleRegion, hq, hl] using ih

/-- Words that close the open module, if there is one, and complete every module they begin stand before a module that
overflows. -/
def OverflowsAfterClosed (cfg : Cfg) (m : Option (List ClusterWord)) (ws : List Word64) : Prop :=
  ∃ before header rest, ws = before ++ header :: rest ∧ regionClosed m.isSome before = true ∧
    (moduleRegion cfg m before).status = .ok ∧
    moduleRegion cfg none (header :: rest) = { status := .queueOverflow, out := [header] }

/-- A word before the region, where it leads from one open module to the next whatever follows it. -/
theorem OverflowsAfterClosed.cons {cfg : Cfg} {m m' : Option (List ClusterWord)} {w : Word64} {ws : List Word64}
    (h : OverflowsAfterClosed cfg m' ws)
    (hclosed : ∀ vs, regionClosed m.isSome (w :: vs) = regionClosed m'.isSome vs)
    (hstatus : ∀ vs, (moduleRegion cfg m (w :: vs)).status = (moduleRegion cfg m' vs).status) :
    OverflowsAfterClosed cfg m (w :: ws) := by
  obtain ⟨before, header, rest, rfl, hbefore, hok, hover⟩ := h
  exact ⟨w :: before, header, rest, rfl, (hclosed before).trans hbefore, (hstatus before).trans hok, hover⟩

/-- An overflow is in the module open at the start, which then puts nothing in the output, or in a later one. -/
theorem moduleRegion_overflow {cfg : Cfg} (m : Option (List ClusterWord)) (ws : List Word64)
    (h : (moduleRegion cfg m ws).status = .queueOverflow) :
    (m.isSome ∧ moduleRegion cfg m ws = { status := .queueOverflow, out := [] }) ∨
    OverflowsAfterClosed cfg m ws := by
  induction m, ws using moduleRegion.induct cfg with
  | case1 | case2 => cases h
  | case3 w ws ih =>
    right
    rcases ih h with ⟨-, e⟩ | hlater
    · exact ⟨[], w, ws, rfl, rfl, rfl, by rw [moduleRegion, e]; rfl⟩
    · exact hlater.cons (fun _ => rfl) (fun _ => rfl)
  | case4 q w ws hq => exact .inl ⟨rfl, by simp only [moduleRegion, hq]⟩
  | case5 q w ws q' hq hl ih =>
    have hstatus (vs : List Word64) :
        (moduleRegion cfg (some q) (w :: vs)).status = (moduleRegion cfg none vs).status := by
      simp [moduleRegion, hq, hl]
    have hlater := (ih ((hstatus ws).symm.trans h)).resolve_left (by simp)
    exact .inr (hlater.cons (fun _ => by simp [regionClosed, hl]) hstatus)
  | case6 q w ws q' hq hl ih =>
    have hline (vs : List Word64) : moduleRegion cfg (some q) (w :: vs) = moduleRegion cfg (some q') vs := by
      simp [moduleRegion, hq, hl]
    rw [hline] at h ⊢
    exact (ih h).imp id (·.cons (fun _ => by simp [regionClosed, hl]) fun vs => by rw [hline])

/-- The footer does not follow a region that has stopped. -/
theorem addFooter_of_stopped (footer : List Word64) {r : FrameResult} (h : r.status ≠ .ok) : r.addFooter footer = r :=
  if_neg h

/-- A frame that stops with QueueOverflow has passed the length check, and its module region is what overflows. -/
theorem frameResult_overflow {cfg : Cfg} {ws : List Word64} (h : (frameResult cfg ws).status = .queueOverflow) :
    let region := (ws.take (ws.length - cfg.footerSize)).drop cfg.headerSize
    (moduleRegion cfg none region).status = .queueOverflow ∧
      frameResult cfg ws = (moduleRegion cfg none region).prepend (ws.take cfg.headerSize) := by
  intro region
  rcases Nat.lt_or_ge ws.length (cfg.headerSize + cfg.footerSize) with hv | hv
  · rw [frameResult_short hv] at h
    cases h
  · have hframe := frameResult_admitted hv
    have hregion : (moduleRegion cfg none region).status = .queueOverflow := by
      rwa [hframe, prepend_status, addFooter_status] at h
    exact ⟨hregion, by rw [hframe, addFooter_of_stopped _ (by rw [hregion]; nofun)]⟩

/-! ### Every outcome of a step (R234) -/

theorem execStart_outcomes (v : Nat) (s : State) :
    (∃ t, execStart v s = .next t) ∨ execStart v s = .refused .frameInProgress ∨
      execStart v s = .refused .lengthExceedsCounter := by
  unfold execStart
  split
  · exact .inr (.inl rfl)
  · split
    · exact .inr (.inr rfl)
    · exact .inl ⟨_, rfl⟩

theorem hostInput_outcomes (i : HostInput) (s : State) :
    (∃ t, hostInput i s = .next t) ∨
    ∃ cfg, i = .configure cfg ∧ hostInput i s = .refused .configChangedInFrame := by
  cases i with
  | configure cfg =>
    simp only [hostInput]
    split
    · exact .inr ⟨cfg, rfl, rfl⟩
    · exact .inl ⟨_, rfl⟩
  | supply | takeOutput | reset => exact .inl ⟨_, rfl⟩

theorem holdBack_next (s t : State) : ∃ u, holdBack s (.next t) = .next u := by
  simp only [holdBack]
  split <;> exact ⟨_, rfl⟩

/-- A step answers a next state, refuses an act of the host, or finds no transition where the phase must have one. -/
theorem step_outcomes (s : State) :
    (∃ t, step s = .next t) ∨
    (∃ v, nextMove s = .run (.frameStart v) 0#64 ∧
      (step s = .refused .frameInProgress ∨ step s = .refused .lengthExceedsCounter)) ∨
    (∃ cfg, nextMove s = .host (.configure cfg) ∧ step s = .refused .configChangedInFrame) ∨
    (nextMove s = .stuck ∧ step s = .fault .noTransition) := by
  cases hm : nextMove s with
  | run slot w =>
    rcases run_fires hm with ⟨v, rfl, rfl⟩ | ⟨i, t, hd, hx, -⟩
    · have hstep : step s = holdBack s.clock (execStart v s.clock) := step_of_run hm rfl
      rcases execStart_outcomes v s.clock with ⟨t, hx⟩ | hx | hx
      · rw [hstep, hx]
        exact .inl (holdBack_next _ t)
      · exact .inr (.inl ⟨v, rfl, .inl (by rw [hstep, hx]; rfl)⟩)
      · exact .inr (.inl ⟨v, rfl, .inr (by rw [hstep, hx]; rfl)⟩)
    · rw [step_of_run hm hd, hx]
      exact .inl (holdBack_next _ t)
  | headerEnd => exact .inl ⟨s.clock.leaveHeader, by simp only [step, hm]⟩
  | wait => exact .inl ⟨s.clock, by simp only [step, hm]⟩
  | host i =>
    have hstep : step s = hostInput i s.clock := by simp only [step, hm]
    rw [hstep]
    rcases hostInput_outcomes i s.clock with hx | ⟨cfg, rfl, hx⟩
    · exact .inl hx
    · exact .inr (.inr (.inl ⟨cfg, rfl, hx⟩))
  | stuck => exact .inr (.inr (.inr ⟨rfl, by simp only [step, hm]⟩))

theorem fetch_ne_stuck {s : State} (hi : s.Inv) : fetch s ≠ .stuck := by
  cases hp : s.phase.presentable with
  | true => simp [fetch_presentable hp]
  | false => rcases fetch_of_running hi hp with ⟨-, -, hm⟩ | ⟨-, -, hm⟩ | ⟨slot, w, hm, -⟩ <;> simp [hm]

/-- With the read index in its region every phase of a running frame has an enabled transition or waits for a word
(R113). -/
theorem nextMove_ne_stuck {s : State} (hi : s.Inv) : nextMove s ≠ .stuck := by
  unfold nextMove
  split
  · rename_i a _ _
    cases a <;> nofun
  · exact fetch_ne_stuck hi
  · exact fetch_ne_stuck hi

/-! ### The obligations of 60_exceptions.md -/

/-- Settles O54: the invariant rules out the last outcome of `step_outcomes`, and the two refusals are the host's. -/
theorem onlyTheHostCanStopTheCore : Obligations.OnlyTheHostCanStopTheCore := by
  intro s hi
  rcases step_outcomes s with ⟨t, h⟩ | ⟨v, hm, h | h⟩ | ⟨cfg, hm, h⟩ | ⟨hm, -⟩
  · exact ⟨by simp [h], by simp [h]⟩
  · exact ⟨by simp [h], fun r hr => .inl ⟨v, hm, .inl (by simpa [h] using hr.symm)⟩⟩
  · exact ⟨by simp [h], fun r hr => .inl ⟨v, hm, .inr (by simpa [h] using hr.symm)⟩⟩
  · exact ⟨by simp [h], fun r hr => .inr ⟨cfg, hm, by simpa [h] using hr.symm⟩⟩
  · exact absurd hm (nextMove_ne_stuck hi)

/-- Settles O58: the length check decides, since no push overflows an unbounded queue. -/
theorem unboundedQueueNeverOverflows : Obligations.UnboundedQueueNeverOverflows := by
  intro cfg ws hc
  split
  · rename_i hv
    rw [frameResult_short hv]
  · rename_i hv
    rw [frameResult_admitted (Nat.not_lt.mp hv), prepend_status, addFooter_status,
      moduleRegion_status_of_unbounded hc]

/-- Settles O59: no module is open before the region, so closed words stand before the module that overflows
(`moduleRegion_overflow`), and their output is independent of it (`moduleRegion_append`). -/
theorem overflowedOutputIsPrecise : Obligations.OverflowedOutputIsPrecise := by
  intro cfg ws h
  obtain ⟨hregion, hframe⟩ := frameResult_overflow h
  obtain ⟨before, header, rest, hws, hclosed, hok, hover⟩ :=
    (moduleRegion_overflow none _ hregion).resolve_left (by simp)
  refine ⟨before, header, rest, hws, hclosed, hok, hover, ?_⟩
  rw [hframe, hws, moduleRegion_append none before _ hclosed hok, hover, prepend_out, prepend_out, List.append_assoc]

/-- Settles O44: FLUSH from its entry emits `ModuleOutput(q)`, which is the sentinel, and changes only what T8 does. -/
theorem overlappingModuleIsRecoverable : Obligations.OverlappingModuleIsRecoverable := by
  rintro s ⟨hp, hh, hpr, ho, hm⟩ hnz hon hoverlap
  have hwords : s.flushWords = [sentinel] := by
    rw [flushWords_of_clear hh hpr ho hm, moduleOutput, if_pos ⟨hon, hoverlap⟩]
  refine ⟨_, exec_flush hp, ?_⟩
  rw [endModule_drain hnz, hwords]
  exact ⟨rfl, rfl, rfl, rfl⟩

/-- Settles O17: the upper half finds the queue full, or the lower one does, after a zero upper half or one that took the
last place. -/
theorem fullQueueStopsTheFrame : Obligations.FullQueueStopsTheFrame := by
  intro hi lo s n hp hr hc i hrow
  have hne : s.phase ≠ .fault := by simp [hp]
  refine ⟨fun hhi hn => ?_, fun hhi hlo hn => ?_, fun hhi hlo hn => ?_⟩
  · exact exec_line_overflow hp hr (queueLine_upper_full lo hhi ((queueFull_iff hc _).mpr hn)) rfl i hrow
  · have hupper : s.consume.pushHalf hi = { s.consume with q := s.q } := by rw [hhi, pushHalf_zero]; rfl
    exact exec_line_overflow hp hr (queueLine_lower_full hne hupper hlo ((queueFull_iff hc _).mpr hn)) rfl i hrow
  · have hroom : queueFull s.cfg s.q = false := by
      rw [Bool.eq_false_iff, ne_eq, queueFull_iff hc]
      omega
    have hupper := pushHalf_room (s := s.consume) hhi hroom
    have hfull : queueFull s.cfg (s.q ++ [hi]) = true := by simpa [queueFull_iff hc] using hn
    exact exec_line_overflow hp hr (queueLine_lower_full hne hupper hlo hfull) rfl i hrow

end Sys2Proof.Machine
end

section
/-!
SUPPORT. Reset and the host's acts (spec/70_reset_and_hazards.md): the two guards of START, the range of the counters, the
acts of the host other than presenting a frame, and what the core does while it waits for the host.
-/

namespace Sys2Proof.Machine

/-! ### Presenting a frame (R264, R266) -/

theorem presentable_iff (p : Phase) : p.presentable = true ↔ p ∈ [Phase.idle, .done, .errLen, .fault] := by
  cases p <;> simp [Phase.presentable]

theorem exec_start_of_running (v : Nat) {s : State} (h : s.running) : exec (.start v) s = .refused .frameInProgress :=
  if_pos h

theorem exec_start_of_not_fits {v : Nat} {s : State} (hp : s.phase.presentable = true)
    (hfit : lengthFits s.cfg v = false) : exec (.start v) s = .refused .lengthExceedsCounter := by
  simp [exec, execStart, hp, hfit]

theorem exec_start_of_fits {v : Nat} {s : State} (hp : s.phase.presentable = true) (hfit : lengthFits s.cfg v = true) :
    exec (.start v) s = .next (s.startFrame v) := by
  simp [exec, execStart, hp, hfit]

theorem clock_running {s : State} (h : s.running) : s.clock.running := by
  rwa [State.running, State.clock_phase]

/-- A running frame is followed by no other before its end, so a step that answers a next state has not run START. -/
theorem nextMove_ne_start {s t : State} (hrun : s.running) (h : step s = .next t) (v : Nat) :
    nextMove s ≠ .run (.frameStart v) 0#64 := fun hm => by
  rw [step_of_run (i := .start v) hm rfl, exec_start_of_running v (clock_running hrun)] at h
  cases h

/-- Beside the frame's length START reads the configuration alone (R261, 40_frame_parser.md R115). -/
theorem startFrame_forgets (v : Nat) {s₁ s₂ : State} (hcfg : s₁.cfg = s₂.cfg) :
    (s₁.startFrame v).coreView = (s₂.startFrame v).coreView ∧ (s₁.startFrame v).input = (s₂.startFrame v).input := by
  rcases Nat.lt_or_ge v (s₂.cfg.headerSize + s₂.cfg.footerSize) with hv | hv
  · rw [startFrame_short (hcfg ▸ hv), startFrame_short hv]
    exact ⟨rfl, rfl⟩
  · rw [startFrame_admitted (hcfg ▸ hv), startFrame_admitted hv, hcfg]
    exact ⟨rfl, rfl⟩

/-! ### The range of the counters (R266) -/

theorem lengthFits_iff {cfg : Cfg} {k : Nat} (hk : cfg.lenWidth = some k) (v : Nat) :
    lengthFits cfg v = true ↔ v < 2 ^ k ∧ cfg.headerSize + cfg.footerSize < 2 ^ k := by
  simp [lengthFits, hk]

/-- Every region of a running frame ends at or before the frame's end (10_state.md R32). -/
theorem rd_le_vs_of_running {s : State} (hi : s.Inv) (hrun : s.running) : s.rd ≤ s.vs := by
  obtain ⟨⟨hle, hmap⟩, hrd, -⟩ := hi
  obtain ⟨hH, -⟩ := hmap hrun
  cases hp : s.phase with
  | idle | done | errLen | fault => simp [State.running, hp, Phase.presentable] at hrun
  | hdr | modhdr | strip | flush | ftr =>
    simp only [State.readIndexOk, hp] at hrd
    omega

theorem counters_lt_of_running {s : State} {k : Nat} (hi : s.Inv) (hrun : s.running) (hk : s.cfg.lenWidth = some k) :
    s.rd < 2 ^ k ∧ s.vs < 2 ^ k ∧ s.fe < 2 ^ k := by
  have hrd := rd_le_vs_of_running hi hrun
  obtain ⟨⟨hfe, hmap⟩, -⟩ := hi
  obtain ⟨-, -, hfit, -⟩ := hmap hrun
  have hvs := ((lengthFits_iff hk s.vs).mp hfit).1
  exact ⟨hrd.trans_lt hvs, hvs, hfe.trans_lt hvs⟩

/-! ### A due act of the host (R260, R262, R263) -/

theorem step_of_give {s : State} {i : HostInput} {es : List HostEvent} (h : s.schedule = ⟨0, .give i⟩ :: es) :
    step s = hostInput i { s with schedule := es } := by
  simp only [step, nextMove_of_due h, actMove, clock_of_due h]

/-! ### The core waits (R261, R263) -/

theorem step_of_wait {s : State} (hsch : s.schedule = []) (hm : fetch s = .wait) : step s = .next s := by
  simp only [step, nextMove_of_nil hsch, hm, clock_of_nil hsch]

theorem inRegion_wait {limit : Nat} {slot : Slot} {atEnd : Move} {s : State} (hr : s.rd < limit)
    (hw : s.input[s.rd]? = none) : inRegion limit slot atEnd s = .wait := by
  simp only [inRegion, hr, if_true, readWord, hw]

/-! ### The host takes no words (R263) -/

theorem clock_coreView (s : State) : s.clock.coreView = s.coreView := by simp [State.coreView]

theorem holdBack_out_le {s t : State} {o : Host.Outcome State Fault Refusal} (ht : s.taking = false)
    (h : holdBack s o = .next t) : t.out.length ≤ s.out.length := by
  cases o with
  | next u =>
    simp only [holdBack, ht, true_and] at h
    split at h <;> cases h
    · exact Nat.le_refl _
    · exact Nat.not_lt.mp ‹_›
  | fault | refused => cases h

/-- No step makes the output longer while the host takes no words. -/
theorem step_out_le {s t : State} (ht : s.taking = false) (h : step s = .next t) : t.out.length ≤ s.out.length := by
  cases hm : nextMove s with
  | run slot w =>
    simp only [step, hm] at h
    split at h
    · simpa using holdBack_out_le ((State.clock_taking s).trans ht) h
    · cases h
  | host i =>
    simp only [step, hm] at h
    rcases hostInput_next h with ⟨_, -, rfl⟩ | ⟨_, rfl⟩ | ⟨_, rfl⟩ | ⟨-, rfl⟩
    · simp
    · simp
    · simp
    · exact Nat.zero_le _
  | headerEnd | wait =>
    simp only [step, hm] at h
    cases h
    simp
  | stuck =>
    simp only [step, hm] at h
    cases h

theorem Fires.out_eq_of_length_le {s t : State} (hf : Fires s t) (h : t.out.length ≤ s.out.length) : t.out = s.out := by
  obtain ⟨ws, hout⟩ := hf.out_grows
  obtain rfl : ws = [] := by simpa [hout] using h
  rw [hout, List.append_nil]

/-- What a running frame's step selects is one of R113's transitions. -/
theorem fires_of_exec {s u : State} {slot : Slot} {w : Word64} {i : Instr} (hrun : s.running)
    (hm : nextMove s = .run slot w) (hd : decode slot w = .ok i) (hx : exec i s.clock = .next u) : Fires s.clock u := by
  rcases run_fires hm with ⟨v, rfl, rfl⟩ | ⟨i', u', hd', hx', hf⟩
  · obtain rfl : Instr.start v = i := Except.ok.inj hd
    rw [exec_start_of_running v (clock_running hrun)] at hx
    cases hx
  · obtain rfl : i' = i := Except.ok.inj (hd'.symm.trans hd)
    obtain rfl : u' = u := by simpa [hx'] using hx
    exact hf

/-! ### The obligations of 70_reset_and_hazards.md -/

/-- Settles O11: START's second guard is the refusal, and the invariant bounds `rd` and `fe` by a `vs` that fits. -/
theorem countersNeverWrap : Obligations.CountersNeverWrap := by
  refine ⟨fun v k s hp hk hlong => exec_start_of_not_fits hp ?_, fun k s t hi h hrun hk =>
    counters_lt_of_running (step_inv hi h) hrun hk⟩
  rw [Bool.eq_false_iff, ne_eq, lengthFits_iff hk]
  omega

/-- Settles O48: a transition only appends to the output (`Fires.out_grows`), and no step makes it longer while the host
takes no words (`step_out_le`). So a transition that emits is held back, and moving the schedule on is all its step does. -/
theorem noWordIsDroppedWhileTheHostStalls : Obligations.NoWordIsDroppedWhileTheHostStalls := by
  refine ⟨fun s t ht h hrun => or_iff_not_imp_right.mpr fun hreset => ?_,
    fun s u slot w i ht hrun hm hd hx hne => ⟨?_, clock_coreView s, State.clock_input s⟩⟩
  · rcases step_frame_kept_or_fires h (nextMove_ne_start hrun h) hreset with ⟨hout, -⟩ | hf
    · exact hout
    · simpa using hf.out_eq_of_length_le (by simpa using step_out_le ht h)
  · have hf := fires_of_exec hrun hm hd hx
    have hlonger : s.out.length < u.out.length :=
      Nat.lt_of_not_le fun hle => hne (by simpa using hf.out_eq_of_length_le (by simpa using hle))
    exact ((stepRunsTheDecodedInstruction s slot w i hm hd).2 ht u hx).2 hlonger

/-- Settles O8: a due reset is the host's act whatever the phase, and `State.resetCore` keeps the host's side alone. -/
theorem resetAtAnyTime : Obligations.ResetAtAnyTime :=
  fun _ _ hsch => step_of_give hsch

/-- Settles O10: START's first guard is the refusal, and the four phases and a length that fits meet both guards. -/
theorem framesDoNotOverlap : Obligations.FramesDoNotOverlap := by
  intro v s
  rw [← presentable_iff]
  exact ⟨fun hrun => exec_start_of_running v (Bool.eq_false_iff.mpr hrun),
    fun hp hfit => ⟨_, exec_start_of_fits hp hfit⟩⟩

/-- Settles O12: START sets every element of the core from the configuration and the length (`startFrame_forgets`). -/
theorem startForgetsEarlierFrames : Obligations.StartForgetsEarlierFrames :=
  fun v _ _ hcfg hp₁ hp₂ hfit =>
    ⟨_, _, exec_start_of_fits hp₁ hfit, exec_start_of_fits hp₂ (hcfg ▸ hfit), startFrame_forgets v hcfg⟩

/-- Settles O47: `fetch` waits in the four phases without a frame, and in a region whose next word is not supplied. -/
theorem coreWaitsForTheHost : Obligations.CoreWaitsForTheHost := by
  refine ⟨fun s hsch hp => step_of_wait hsch (fetch_presentable ((presentable_iff _).mpr hp)),
    fun s hsch hw => ⟨fun hp hr => ?_, fun hp hr => ?_, fun hp hr => ?_, fun hp hr => ?_⟩⟩
  · exact step_of_wait hsch ((fetch_hdr hp).trans (inRegion_wait hr hw))
  · exact step_of_wait hsch ((fetch_modhdr hp).trans (inRegion_wait hr hw))
  · exact step_of_wait hsch ((fetch_strip hp).trans (inRegion_wait hr hw))
  · exact step_of_wait hsch ((fetch_ftr hp).trans (inRegion_wait hr hw))

/-- Settles O49: each act is its case of `hostInput` on the state with the schedule moved on, and the two clauses on the
configuration are the two sides of its guard. -/
theorem configurationIsHeldDuringAFrame : Obligations.ConfigurationIsHeldDuringAFrame := by
  refine ⟨fun s cfg es hsch => ⟨fun hrun hne => ?_, fun hok => ?_⟩, fun _ _ _ hsch => step_of_give hsch,
    fun _ _ _ hsch => step_of_give hsch⟩
  · exact (step_of_give hsch).trans (if_pos ⟨hrun, hne⟩)
  · refine (step_of_give hsch).trans (if_neg fun ⟨hrun, hne⟩ => ?_)
    rcases hok with hp | rfl
    · exact absurd (hrun.symm.trans hp) Bool.false_ne_true
    · exact hne rfl

end Sys2Proof.Machine
end
